-- ==== Sys2Proof/Word.lean ====
section
/-! DEFINITION. The bit vectors of the AMG8833 sensor sequencer, by the widths of `00_scope.md` rule R6. -/

namespace Sys2Proof

/-- A command word, a raw sample, an output word or a response word: `CMD_W = RAW_W = OUT_W = 16`. -/
abbrev Word := BitVec 16

/-- An opcode, an operand, a register address or a written value: `REG_ADDR_W = WR_W = 8`. -/
abbrev Byte := BitVec 8

/-- A device address on the bus: `DEV_ADDR_W = 7`. -/
abbrev DevAddr := BitVec 7

end Sys2Proof
end

