-- ==== Sys2Proof/Syntax.lean ====
section
/-! DEFINITION. The eight commands of `30_encoding.md` rule R72, one constructor per row of the opcode table. -/

namespace Sys2Proof

/-- A decoded command. The operand's type holds the operand constraint of R72: 7 bits for an address (R73), 8 bits for a
value (R74) or a count (R75: "0 to 255 representable"), none for `RDTHERM` (R76). -/
inductive Instr where
  /-- `INIT addr`: construction (R100). -/
  | init (addr : DevAddr)
  /-- `SETMODE value`: set operating mode (R110). -/
  | setmode (value : Byte)
  /-- `TRIGRST value`: trigger reset of the sensor (R111). -/
  | trigrst (value : Byte)
  /-- `SETRATE value`: set sample rate (R112). -/
  | setrate (value : Byte)
  /-- `SETINT value`: set interrupt mode (R113). -/
  | setint (value : Byte)
  /-- `CLRSTAT value`: clear status and overflow flags (R114). -/
  | clrstat (value : Byte)
  /-- `RDTEMPS count`: read `count` pixels (R140). -/
  | rdtemps (count : Byte)
  /-- `RDTHERM`: read the thermistor (R148). -/
  | rdtherm
  deriving DecidableEq, Repr

end Sys2Proof
end

