-- ==== Sys2Proof/WellFormed.lean ====
section
/-! DEFINITION. Which command words and which source commands are well formed.
An `Instr` carries its operand constraints in its types, so every `Instr` is well formed; the checks stand where a value can
break them: a 16-bit word against the rows of the opcode table (`30_encoding.md` R72, R77), and an assembler command with
an unbounded operand (R84). -/

namespace Sys2Proof

/-- One row of the opcode table: the bits a word must have (`pattern`) where `mask` is 1. -/
structure OpcodeRow where
  mnemonic : String
  pattern : Word
  mask : Word
  deriving DecidableEq, Repr

/-- The eight rows of the opcode table of R72, as match and mask. -/
def opcodeRows : List OpcodeRow :=
  [ ⟨"INIT", 0x0100, 0xFF80⟩,
    ⟨"SETMODE", 0x1000, 0xFF00⟩,
    ⟨"TRIGRST", 0x1100, 0xFF00⟩,
    ⟨"SETRATE", 0x1200, 0xFF00⟩,
    ⟨"SETINT", 0x1300, 0xFF00⟩,
    ⟨"CLRSTAT", 0x1500, 0xFF00⟩,
    ⟨"RDTEMPS", 0x2000, 0xFF00⟩,
    ⟨"RDTHERM", 0x2100, 0xFFFF⟩ ]

/-- The word has the fixed bits of the row. -/
def OpcodeRow.fits (r : OpcodeRow) (w : Word) : Bool := w &&& r.mask == r.pattern

/-- A command word is legal when it matches a row of R72 with its operand constraints (R77). -/
def wordWellFormed (w : Word) : Bool := opcodeRows.any (fun r => r.fits w)

/-- The mnemonics an assembler line may carry: the eight of R72 and the pseudo-instruction `RDFRAME` of R86. -/
inductive Mnemonic where
  | init | setmode | trigrst | setrate | setint | clrstat | rdtemps | rdtherm | rdframe
  deriving DecidableEq, Repr

/-- An assembler command before its operand's range is checked (R84). -/
structure SourceCommand where
  mnemonic : Mnemonic
  operand : Option Nat
  deriving DecidableEq, Repr

/-- R84: "The assembler refuses an `INIT` operand above 0x7F and a format W operand above 0xFF. It accepts `RDTEMPS`
operands 0 to 255"; `RDTHERM` (R76) and `RDFRAME` (R86) take no operand, the others need one. -/
def SourceCommand.wellFormed (c : SourceCommand) : Bool :=
  match c.mnemonic, c.operand with
  | .init, some n => n ≤ 0x7F
  | .setmode, some n => n ≤ 0xFF
  | .trigrst, some n => n ≤ 0xFF
  | .setrate, some n => n ≤ 0xFF
  | .setint, some n => n ≤ 0xFF
  | .clrstat, some n => n ≤ 0xFF
  | .rdtemps, some n => n ≤ 0xFF
  | .rdtherm, none => true
  | .rdframe, none => true
  | .rdtherm, some _ => false
  | .rdframe, some _ => false
  | .init, none => false
  | .setmode, none => false
  | .trigrst, none => false
  | .setrate, none => false
  | .setint, none => false
  | .clrstat, none => false
  | .rdtemps, none => false

end Sys2Proof
end

