-- ==== Sys2Proof/Decode.lean ====
section
/-! DEFINITION. The decoder, total on 16-bit words (`30_encoding.md` R79, R87), and the encoder. -/

namespace Sys2Proof

/-- Why a word is no command: the three classes of R77. -/
inductive Illegal where
  /-- `op` is none of the eight opcodes of R72. -/
  | opcode (op : Byte)
  /-- `op = 0x01` and `arg[7] = 1` (R73). -/
  | initBit7
  /-- `op = 0x21` and `arg` is not 0x00 (R76). -/
  | thermOperand
  deriving DecidableEq, Repr

/-- `cmd[15:8]`, the opcode (R70). -/
def opField (w : Word) : Byte := w.extractLsb' 8 8

/-- `cmd[7:0]`, the operand (R70). -/
def argField (w : Word) : Byte := w.extractLsb' 0 8

/-- `arg[6:0]`, the device address of `INIT` (R73). -/
def addrField (arg : Byte) : DevAddr := arg.extractLsb' 0 7

/-- The command word with an opcode and an operand: `op` in bits 15:8, `arg` in bits 7:0 (R70). -/
def wordOf (op arg : Byte) : Word := (op ++ arg : BitVec (8 + 8))

/-- The operand byte of `INIT`: `{0, addr}` (R71, R73). -/
def addrArg (addr : DevAddr) : Byte := addr.setWidth 8

/-- The decode function of R87, rejecting by name. -/
def decode (w : Word) : Except Illegal Instr :=
  let op := opField w
  let arg := argField w
  if op = 0x01 then
    if arg.getLsbD 7 = false then .ok (.init (addrField arg)) else .error .initBit7
  else if op = 0x10 then .ok (.setmode arg)
  else if op = 0x11 then .ok (.trigrst arg)
  else if op = 0x12 then .ok (.setrate arg)
  else if op = 0x13 then .ok (.setint arg)
  else if op = 0x15 then .ok (.clrstat arg)
  else if op = 0x20 then .ok (.rdtemps arg)
  else if op = 0x21 then
    if arg = 0x00 then .ok .rdtherm else .error .thermOperand
  else .error (.opcode op)

/-- The command word of an instruction, by the patterns of R72. -/
def encode : Instr → Word
  | .init addr => wordOf 0x01 (addrArg addr)
  | .setmode value => wordOf 0x10 value
  | .trigrst value => wordOf 0x11 value
  | .setrate value => wordOf 0x12 value
  | .setint value => wordOf 0x13 value
  | .clrstat value => wordOf 0x15 value
  | .rdtemps count => wordOf 0x20 count
  | .rdtherm => wordOf 0x21 0x00

/-- The command word whose bits are the low `nbits` of `w`, the bits above them zero. A command is one 16-bit word handed
over at the command port, so no byte order enters (R70, `20_memory.md` R58). -/
def tableWord (nbits w : Nat) : Word := BitVec.ofNat 16 (w % 2 ^ nbits)

/-- What the decoder reads from a word given as the opcode table numbers its bits. -/
def decodeTableWord (nbits w : Nat) : Option Instr :=
  match decode (tableWord nbits w) with
  | .ok i => some i
  | .error _ => none

end Sys2Proof
end

