-- ==== Sys2Proof/Config.lean ====
section
/-! DEFINITION. What an implementation fixes and the spec leaves open: parameters and free values, each without a body,
so that nothing proved about the model depends on one. -/

namespace Sys2Proof.Config

/-- `BUS_ID`, the bus the block is wired to: a parameter fixed at build time (`00_scope.md` R6; `10_state.md` R33;
decision D6). No rule of the block depends on it. Log 13. -/
opaque busId : Nat

/-- The byte for the operating mode "sleep": open parameter `VAL_SLEEP` (`30_encoding.md` R85, D25). Log 13. -/
opaque valSleep : Byte

/-- `VAL_STBY_60`, operating mode "standby-60s" (R85). Log 13. -/
opaque valStby60 : Byte

/-- `VAL_STBY_10`, operating mode "standby-10s" (R85). Log 13. -/
opaque valStby10 : Byte

/-- `VAL_FLAG_RST`, reset kind "flag-reset" (R85). Log 13. -/
opaque valFlagRst : Byte

/-- `VAL_FPS_1`, sample rate "1 fps" (R85). Log 13. -/
opaque valFps1 : Byte

/-- `VAL_INT_ABS`, interrupt mode "absolute-value" (R85). Log 13. -/
opaque valIntAbs : Byte

/-- `VAL_INT_DIFF`, interrupt mode "difference" (R85). Log 13. -/
opaque valIntDiff : Byte

/-- `VAL_SCLR`, the byte `CLRSTAT` should carry (R85). Log 13. -/
opaque valSclr : Byte

/-- FREE VALUE: whether a request whose delivery the spec leaves undetermined took effect at the far end, the n-th time
the question arises (`70_reset_and_hazards.md` R191 "A model should treat the delivery as a draw", R201 "may or may not
have changed"; U13, U15). `State.draws` is the counter it is applied to. Log 7. -/
opaque deliveryDraw : Nat → Bool

end Sys2Proof.Config
end

