-- ==== Sys2Proof/Machine/Convert.lean ====
section
/-! DEFINITION. The fixed-point converter FXC and the range validator RV (`42_converter_validator.md`): pure functions over
the mathematical integers. -/

namespace Sys2Proof.Machine

/-- `SIGN_MASK`, the mask of the 11 low bits (`00_scope.md` R6). -/
def signMask : Word := 0x7FF

/-- The sign test both decoders begin with (R121). -/
def low11 (raw : Word) : Bool := raw &&& signMask == raw

/-- The pixel decoder: `raw`, or `raw - 4096` over the integers (R122). -/
def pixMag (raw : Word) : Int := if low11 raw then (raw.toNat : Int) else (raw.toNat : Int) - 4096

/-- The thermistor decoder: `raw`, or `-(raw & 0x7FF)` (R123; zero is plain 0, R136). -/
def thMag (raw : Word) : Int := if low11 raw then (raw.toNat : Int) else -((raw &&& signMask).toNat : Int)

/-- `PIX_MIN`, the smallest accepted pixel magnitude (R130). -/
def pixMin : Int := -80

/-- `PIX_MAX`, the largest accepted pixel magnitude (R130). -/
def pixMax : Int := 400

/-- RV: `(mag < -80) or (mag > 400)`, both strict (R129). -/
def violates (mag : Int) : Bool := decide (mag < pixMin) || decide (pixMax < mag)

/-- `MAG` as the block carries it: 17-bit two's complement (R120, D10). -/
def toMag (mag : Int) : BitVec 17 := BitVec.ofInt 17 mag

/-- The output word of a pixel or thermistor magnitude: `sext_16(mag)` (R125, R126, R127). -/
def outWord (mag : Int) : Word := BitVec.ofInt 16 mag

end Sys2Proof.Machine
end

