-- ==== Sys2Proof/Machine/State.lean ====
section
/-! DEFINITION. The state of the block as plain data, the messages on its three ports, and the reasons a step can stop. -/

namespace Sys2Proof.Machine

/-- The lifecycle state `PHASE` (`10_state.md` R21). -/
inductive Phase where
  /-- "Uninitialized": no device handle; code 0. -/
  | uninit
  /-- "Configured (post-construction)": a device handle exists; code 1. -/
  | configured
  deriving DecidableEq, Repr

/-- The two transport primitives (`20_memory.md` R40); the bit `kind` of R88 is 0 for a write and 1 for a read. -/
inductive AccessKind where
  | writeByte
  | readWord
  deriving DecidableEq, Repr

/-- A transport request: the record of five fields of `30_encoding.md` R88. -/
structure Request where
  kind : AccessKind
  le : Bool
  dev : DevAddr
  reg : Byte
  val : Byte
  deriving DecidableEq, Repr

/-- A transport reply: the record of two fields of `30_encoding.md` R89. `data` is ignored when `err` is true, and for a
write. -/
structure Reply where
  err : Bool
  data : Word
  deriving DecidableEq, Repr

/-- The status of a response (`30_encoding.md` R81, `60_exceptions.md` R160). -/
inductive Status where
  /-- The command completed; code 0x0. -/
  | ok
  /-- `RangeViolation`; code 0x1. -/
  | range
  /-- `TransportError`; code 0x2. -/
  | transport
  /-- The word is not a command; code 0x3. -/
  | illegal
  /-- A command other than `INIT` in `PHASE = UNINIT`; code 0x4. -/
  | notConf
  /-- `RDTEMPS` with `count` outside 1..64; code 0x5. -/
  | badCount
  deriving DecidableEq, Repr

/-- A response: its status and its data words; the header word is computed from them (`30_encoding.md` R80). -/
structure Response where
  status : Status
  data : List Word
  deriving DecidableEq, Repr

/-- What the world outside the block does next (`00_scope.md` R12, `70_reset_and_hazards.md` R190, R205, R206). Log 2, 9. -/
inductive Input where
  /-- The host presents a command word at the command port (R205). -/
  | command (w : Word)
  /-- The transport answers the outstanding request (R42, R206). -/
  | reply (r : Reply)
  /-- The transport answers a request that a reset abandoned; "any answer to it that arrives after reset is ignored"
  (R191). -/
  | staleReply (r : Reply)
  /-- Time passes with no event: "it may delay any answer for any finite time" (R206). -/
  | delay
  /-- The hardware reset event, "that may occur at any time" (R190). -/
  | reset
  deriving DecidableEq, Repr

/-- The state: the nine items of `10_state.md` R20, the outstanding request of R32, and the model's own fields. -/
structure State where
  /-- `PHASE` (R21). -/
  phase : Phase
  /-- `DEV_ADDR` (R22). -/
  devAddr : DevAddr
  /-- `BUSY` (R23). -/
  busy : Bool
  /-- `OP`, the opcode of the command in progress (R24). -/
  op : Byte
  /-- `ARG`, the operand of the command in progress (R24). -/
  arg : Byte
  /-- `STEP`, the index of the next transport request (R25). -/
  step : BitVec 7
  /-- `ACC[0..63]`, the result accumulator (R26). -/
  acc : Vector Word 64
  /-- `RAW`, the last word the transport returned (R27). -/
  raw : Word
  /-- `MAG`, the signed magnitude decoded from `RAW`, 17-bit two's complement (R27, R120). -/
  mag : BitVec 17
  /-- `PENDING`, the request sent and not yet answered (R32 a). -/
  pending : Option Request
  /-- THE MODEL'S OWN: what the host, the transport and the reset line do, next first. Log 2. -/
  inputs : List Input
  /-- THE MODEL'S OWN: the command words taken from the command port, oldest first: the run so far (R204). Log 8, 21. -/
  commands : List Word
  /-- THE MODEL'S OWN: the bus trace, every request sent, oldest first (R10, R204). Log 8. -/
  trace : List Request
  /-- THE MODEL'S OWN: the requests that took effect at the far end, oldest first (R102, R191, R201). Log 7, 8. -/
  delivered : List Request
  /-- THE MODEL'S OWN: the responses emitted, oldest first (R181, R204). Log 8. -/
  responses : List Response
  /-- THE MODEL'S OWN: how many values of `Config.deliveryDraw` have been drawn. Log 7. -/
  draws : Nat
  deriving DecidableEq, Repr

/-- Why a step stops with a fault. -/
inductive Fault where
  /-- `BUSY = 1`, but `OP`, `STEP` and `ARG` name neither a next request nor a finished command, and no request is
  outstanding: no rule of the spec has a next action. Raised by `step` and `smallStep` when they resume a command. Safe:
  the spec gives such a state no step, and no run from reset reaches one. Log 10. -/
  | noRule
  deriving DecidableEq, Repr

/-- Why a step is refused. -/
inductive Refusal where
  /-- An instruction that has no meaning yet, rejected by name in `exec`. Raised by no arm: all eight have a meaning. Safe. -/
  | notModelled (mnemonic : String)
  /-- A command word presented while `BUSY = 1`: it "has no step in the model" (`70_reset_and_hazards.md` R196, D20).
  Raised by every meaning's acceptance check and by `step` for an illegal word. Safe with respect to the spec, which
  excludes the situation. Log 5. -/
  | commandWhileBusy
  /-- The transport answers a request that was not sent, which it "must not" do (`70_reset_and_hazards.md` R206). Raised by
  `step` and `smallStep`. Safe: the spec excludes the situation. Log 6. -/
  | unsolicitedReply
  deriving DecidableEq, Repr

/-- The state right after reset (`10_state.md` R35, `70_reset_and_hazards.md` R190): `PHASE = UNINIT`, `BUSY = 0`, no
request outstanding. Every register the spec leaves unspecified holds zero: DESIGN CHOICE, log 1. The model's own fields are
empty: log 2, 7, 8. -/
def State.reset : State where
  phase := .uninit
  devAddr := 0
  busy := false
  op := 0
  arg := 0
  step := 0
  acc := Vector.replicate 64 0
  raw := 0
  mag := 0
  pending := none
  inputs := []
  commands := []
  trace := []
  delivered := []
  responses := []
  draws := 0

end Sys2Proof.Machine
end

