-- ==== Sys2Proof/Machine/Operands.lean ====
section
/-! DEFINITION. The register map, the constants of the block and the operand forms. -/

namespace Sys2Proof.Machine

/-- `REG_PCTL`, power control (`20_memory.md` R45). -/
def regPctl : Byte := 0x00

/-- `REG_RST`, reset (R45). -/
def regRst : Byte := 0x01

/-- `REG_FPSC`, frame rate (R45). -/
def regFpsc : Byte := 0x02

/-- `REG_INTC`, interrupt control (R45). -/
def regIntc : Byte := 0x03

/-- `REG_STAT`, status; no command reaches it (R45, R48). -/
def regStat : Byte := 0x04

/-- `REG_SCLR`, status clear (R45). -/
def regSclr : Byte := 0x05

/-- `REG_TTHL`, thermistor low byte (R45, R47). -/
def regTthl : Byte := 0x0E

/-- `PIXEL_BASE`, the register address of pixel index 0 (R45, R46). -/
def pixelBase : Byte := 0x80

/-- `LE`, the `little_endian` argument of every `read_word` (R49, D7). -/
def littleEndian : Bool := true

/-- `MAX_PIXELS`, the largest legal `count` (`00_scope.md` R6). -/
def maxPixels : Nat := 64

/-- The register address of pixel index `i`: `0x80 + 2*i` (R46). -/
def pixelReg (i : Nat) : Byte := pixelBase + 2 * BitVec.ofNat 8 i

/-- The register a format W command writes: `zext_8(OP[3:0])` (`30_encoding.md` R71, `41_configuration.md` R118). -/
def configReg (op : Byte) : Byte := (op.extractLsb' 0 4).setWidth 8

/-- `VAL_NORMAL`: "normal operating mode" (`00_scope.md` R6). -/
def valNormal : Byte := 0x00

/-- `VAL_INITIAL_RST`: "full initial reset" (R6). -/
def valInitialRst : Byte := 0x3F

/-- `VAL_INT_OFF`: "interrupts disabled" (R6). -/
def valIntOff : Byte := 0x00

/-- `VAL_FPS_10`: "10 frames/second" (R6). -/
def valFps10 : Byte := 0x00

/-- `INIT_ROM`, the construction table: (register, value), in the order of `10_state.md` R34. -/
def initRom : List (Byte × Byte) :=
  [(regPctl, valNormal), (regRst, valInitialRst), (regIntc, valIntOff), (regFpsc, valFps10)]

/-- The legal values of `count`: 1 to 64 (`30_encoding.md` R75, `43_sampling.md` R145). -/
def countLegal (count : Byte) : Bool := 1 ≤ count.toNat && count.toNat ≤ maxPixels

/-- A setter offered over unbounded integers writes `n mod 256` (`30_encoding.md` R74, D30). -/
def setterByte (n : Int) : Byte := BitVec.ofInt 8 n

/-- `write_byte(dev, reg, val)` as a request (R88). -/
def writeByte (dev : DevAddr) (reg val : Byte) : Request :=
  { kind := .writeByte, le := false, dev := dev, reg := reg, val := val }

/-- `read_word(dev, reg, LE)` as a request (R88). -/
def readWord (dev : DevAddr) (reg : Byte) : Request :=
  { kind := .readWord, le := littleEndian, dev := dev, reg := reg, val := 0x00 }

/-- The bit `kind` of R88. -/
def AccessKind.code : AccessKind → BitVec 1
  | .writeByte => 0
  | .readWord => 1

/-- The code of `PHASE` (`10_state.md` R21). -/
def Phase.code : Phase → BitVec 1
  | .uninit => 0
  | .configured => 1

/-- The packed request, 25 bits (R88). -/
def Request.pack (r : Request) : BitVec 25 :=
  (r.kind.code ++ (BitVec.ofBool r.le ++ (r.dev ++ (r.reg ++ r.val))) : BitVec (1 + (1 + (7 + (8 + 8)))))

/-- The packed reply, 17 bits: `err = rsp[16]`, `data = rsp[15:0]` (R89). -/
def Reply.pack (r : Reply) : BitVec 17 := (BitVec.ofBool r.err ++ r.data : BitVec (1 + 16))

/-- The reply a 17-bit word stands for (R89). -/
def Reply.unpack (v : BitVec 17) : Reply := { err := v.getLsbD 16, data := v.extractLsb' 0 16 }

end Sys2Proof.Machine
end

