-- ==== Sys2Proof/Machine/Flags.lean ====
section
/-! DEFINITION. The block has no flags register (`10_state.md` R28); what a command reports is the status and length in its
response header, and the source's `errored` flag is a view of that status (`30_encoding.md` R80 to R83). -/

namespace Sys2Proof.Machine

/-- The status codes of R81. -/
def Status.code : Status → BitVec 4
  | .ok => 0x0
  | .range => 0x1
  | .transport => 0x2
  | .illegal => 0x3
  | .notConf => 0x4
  | .badCount => 0x5

/-- The field `len` of the header: how many data words follow (R80). -/
def Response.len (r : Response) : BitVec 7 := BitVec.ofNat 7 r.data.length

/-- The header word: `status` in bits 15:12, zero in 11:7, `len` in 6:0 (R80). -/
def Response.hdr (r : Response) : Word := (r.status.code ++ (0#5 ++ r.len) : BitVec (4 + (5 + 7)))

/-- The message as the host receives it: the header word, then the data words (R80). -/
def Response.words (r : Response) : List Word := r.hdr :: r.data

/-- The source's flag: `errored = (status == RANGE)` (R83, `90_conflicts.md` C2). -/
def Response.errored (r : Response) : Bool := r.status == .range

end Sys2Proof.Machine
end

