-- ==== Sys2Proof/Machine/Ops.lean ====
section
/-! DEFINITION. The shared operations: sending and answering a transport request, ending a command with its response,
latching a command, hardware reset, and carrying a command through its transactions. -/

namespace Sys2Proof.Machine

/-- *Issue*: the request goes on the bus and is outstanding (`20_memory.md` R43, R59). -/
def send (r : Request) (s : State) : State := { s with pending := some r, trace := s.trace ++ [r] }

/-- Ends the command: emits its one response and the block is idle. An error ends a command in the same way: nothing is
saved, no handler runs, in-flight registers keep what they held (`60_exceptions.md` R166, R169, R170). -/
def respond (status : Status) (data : List Word) (s : State) : State :=
  { s with busy := false, responses := s.responses ++ [{ status := status, data := data }] }

/-- Latches `OP` and `ARG`, clears `STEP`, sets `BUSY` (`10_state.md` R23 to R25). -/
def latch (op arg : Byte) (s : State) : State := { s with busy := true, op := op, arg := arg, step := 0 }

/-- A request whose delivery is undetermined: a FREE VALUE says whether it took effect (R191, R201; U13, U15). Log 7. -/
def drawDelivery (r : Request) (s : State) : State :=
  { s with
    delivered := if Config.deliveryDraw s.draws then s.delivered ++ [r] else s.delivered
    draws := s.draws + 1 }

/-- The outstanding request `r` is answered. An `Ok` answer means that it took effect; after `Err` it may or may not have
(R102, R201; U15). -/
def closeRequest (r : Request) (ans : Reply) (s : State) : State :=
  if ans.err then drawDelivery r { s with pending := none }
  else { s with pending := none, delivered := s.delivered ++ [r] }

/-- `ACC[i] <- w` (`00_scope.md` R8, `10_state.md` R26). An index outside 0..63 writes nothing; no run reaches one
(R25: `STEP` is at most 64 and the write is made at `STEP < ARG`). Log 18. -/
def writeAcc (i : Nat) (w : Word) (s : State) : State := { s with acc := s.acc.setIfInBounds i w }

/-- `ACC[0 .. n-1]`, the words a response copies (R26, R82). -/
def accPrefix (n : Nat) (s : State) : List Word := s.acc.toList.take n

/-- The block's registers at their values after reset (`10_state.md` R35). Log 1. -/
def resetRegisters (s : State) : State :=
  { s with
    phase := State.reset.phase
    devAddr := State.reset.devAddr
    busy := State.reset.busy
    op := State.reset.op
    arg := State.reset.arg
    step := State.reset.step
    acc := State.reset.acc
    raw := State.reset.raw
    mag := State.reset.mag
    pending := State.reset.pending }

/-- The hardware reset event (`70_reset_and_hazards.md` R190, R191): the command in progress is abandoned with no response,
no request is issued, and whether an outstanding request is delivered is a draw. -/
def hardReset (s : State) : State :=
  match s.pending with
  | some r => resetRegisters (drawDelivery r s)
  | none => resetRegisters s

/-- What one command does at each of its transactions: the small-step rules R105, R118, R147, R149 as functions of the
state. -/
structure Sequence where
  /-- *Issue*: the request `STEP` names, if there is one left. -/
  request : State → Option Request
  /-- *Answer Ok(w)*. -/
  answerOk : Word → State → State
  /-- Whether *Finish* is enabled. -/
  done : State → Bool
  /-- *Finish*. -/
  finish : State → State

/-- What the block does on its own before it needs an event: with a command in progress and no request outstanding, issue
the request `STEP` names, or finish. Otherwise nothing (R43: it "does nothing else until the answer arrives"). -/
def settle (q : Sequence) (s : State) : State :=
  if s.busy then
    match s.pending with
    | some _ => s
    | none =>
      match q.request s with
      | some r => send r s
      | none => if q.done s then q.finish s else s
  else s

/-- The answer to the outstanding request arrives. `Err` ends the command with `TRANSPORT` and no data, before anything is
decoded (`60_exceptions.md` R161, R168); there is no retry (R171). -/
def answer (q : Sequence) (ans : Reply) (s : State) : State :=
  match s.pending with
  | none => s
  | some r =>
    if ans.err then respond .transport [] (closeRequest r ans s)
    else q.answerOk ans.data (closeRequest r ans s)

/-- The events still to come. Log 2. -/
def setInputs (ins : List Input) (s : State) : State := { s with inputs := ins }

/-- Carries the command in progress on through the events given, until it ends or an event it must wait for has not come:
strictly one request in flight, the next issued only after the answer (`20_memory.md` R54). A reset event stops it before the
block's next action, a command word while it waits stays where it is. Log 3, 9. -/
def drive (q : Sequence) : List Input → State → State
  | [], s => settle q (setInputs [] s)
  | .reset :: rest, s => setInputs (.reset :: rest) s
  | .command w :: rest, s => settle q (setInputs (.command w :: rest) s)
  | .reply r :: rest, s =>
    let t := settle q (setInputs (.reply r :: rest) s)
    if t.busy && t.pending.isSome then drive q rest (answer q r t) else t
  | .staleReply r :: rest, s =>
    let t := settle q (setInputs (.staleReply r :: rest) s)
    if t.busy && t.pending.isSome then drive q rest t else t
  | .delay :: rest, s =>
    let t := settle q (setInputs (.delay :: rest) s)
    if t.busy && t.pending.isSome then drive q rest t else t

/-- Carries the command in progress on through the state's own events. -/
def carryOut (q : Sequence) (s : State) : State := drive q s.inputs s

/-- The block accepts a command only when `BUSY = 0`; a word presented while it is busy has no step
(`10_state.md` R23, `70_reset_and_hazards.md` R196). Log 5. -/
def whenIdle (s : State) (next : State) : Host.Outcome State Fault Refusal :=
  if s.busy then .refused .commandWhileBusy else .next next

/-- Notes the command word taken from the command port: a run is the list of these (`70_reset_and_hazards.md` R204). No rule
of the block reads it. Log 8, 21. -/
def recordCommand (w : Word) (s : State) : State := { s with commands := s.commands ++ [w] }

/-- The second acceptance check (R164, R168): with no handle, the command is answered `NOTCONF` and nothing else happens. -/
def whenConfigured (s : State) (accepted : State) : State :=
  match s.phase with
  | .uninit => respond .notConf [] s
  | .configured => accepted

end Sys2Proof.Machine
end

