-- ==== Sys2Proof/Machine/Configuration.lean ====
section
/-! DEFINITION. The five configuration commands (`41_configuration.md`). -/

namespace Sys2Proof.Machine

/-- The one write of a configuration command, at `STEP = 0` (R118 *Issue*). -/
def configRequest (s : State) : Option Request :=
  if s.step = 0 then some (writeByte s.devAddr (configReg s.op) s.arg) else none

/-- The small steps the five commands share (R115, R118); the answer step ends the command, so there is no *Finish*. -/
def configSequence : Sequence where
  request := configRequest
  answerOk := fun _ s => respond .ok [] { s with step := 1 }
  done := fun _ => false
  finish := fun s => s

/-- *Accept* of R118, with `NOTCONF` when there is no handle (R117). -/
def acceptConfig (op value : Byte) (s : State) : State := whenConfigured s (latch op value s)

/-- *Accept* of `SETMODE`. -/
def acceptSetmode (value : Byte) (s : State) : State := acceptConfig 0x10 value s

/-- *Accept* of `TRIGRST`. -/
def acceptTrigrst (value : Byte) (s : State) : State := acceptConfig 0x11 value s

/-- *Accept* of `SETRATE`. -/
def acceptSetrate (value : Byte) (s : State) : State := acceptConfig 0x12 value s

/-- *Accept* of `SETINT`. -/
def acceptSetint (value : Byte) (s : State) : State := acceptConfig 0x13 value s

/-- *Accept* of `CLRSTAT`. -/
def acceptClrstat (value : Byte) (s : State) : State := acceptConfig 0x15 value s

/-- `SETMODE value` (R110): one write of `value` to the power-control register. -/
def execSetmode (value : Byte) (s : State) : Host.Outcome State Fault Refusal :=
  whenIdle s (carryOut configSequence (acceptSetmode value s))

/-- `TRIGRST value` (R111): one write of `value` to the reset register; it resets the sensor, not the block. -/
def execTrigrst (value : Byte) (s : State) : Host.Outcome State Fault Refusal :=
  whenIdle s (carryOut configSequence (acceptTrigrst value s))

/-- `SETRATE value` (R112): one write of `value` to the frame-rate register. -/
def execSetrate (value : Byte) (s : State) : Host.Outcome State Fault Refusal :=
  whenIdle s (carryOut configSequence (acceptSetrate value s))

/-- `SETINT value` (R113): one write of `value` to the interrupt-control register. -/
def execSetint (value : Byte) (s : State) : Host.Outcome State Fault Refusal :=
  whenIdle s (carryOut configSequence (acceptSetint value s))

/-- `CLRSTAT value` (R114): one write of `value` to the status-clear register. -/
def execClrstat (value : Byte) (s : State) : Host.Outcome State Fault Refusal :=
  whenIdle s (carryOut configSequence (acceptClrstat value s))

end Sys2Proof.Machine
end

