-- ==== Sys2Proof/Machine/Construction.lean ====
section
/-! DEFINITION. The command `INIT` (`40_construction.md`). -/

namespace Sys2Proof.Machine

/-- The write `STEP` names: entry `STEP` of the construction table (R105 *Issue*, `10_state.md` R34). -/
def initRequest (s : State) : Option Request :=
  match initRom[s.step.toNat]? with
  | some (reg, val) => some (writeByte s.devAddr reg val)
  | none => none

/-- The small steps of `INIT` (R105). -/
def initSequence : Sequence where
  request := initRequest
  answerOk := fun _ s => { s with step := s.step + 1 }
  done := fun s => s.step == 4
  finish := fun s => respond .ok [] { s with phase := .configured }

/-- *Accept* of R105: any earlier handle is discarded (R103) and `DEV_ADDR` is written before the first write (R104). -/
def acceptInit (addr : DevAddr) (s : State) : State :=
  { latch 0x01 (addrArg addr) s with phase := .uninit, devAddr := addr }

/-- `INIT addr` (R100): accepted in both phases; four writes in the order of the table, then `PHASE = CONFIGURED`. -/
def execInit (addr : DevAddr) (s : State) : Host.Outcome State Fault Refusal :=
  whenIdle s (carryOut initSequence (acceptInit addr s))

end Sys2Proof.Machine
end

