-- ==== Sys2Proof/Machine/Sampling.lean ====
section
/-! DEFINITION. The sampling commands `RDTEMPS` and `RDTHERM` (`43_sampling.md`). -/

namespace Sys2Proof.Machine

/-- The read of pixel index `STEP`, while `STEP < ARG` (R147 *Issue*). -/
def scanRequest (s : State) : Option Request :=
  if s.step.toNat < s.arg.toNat then some (readWord s.devAddr (pixelReg s.step.toNat)) else none

/-- The sample enters `RAW` and its pixel magnitude `MAG` (R147 *Answer Ok*, R122). -/
def loadPixel (w : Word) (s : State) : State := { s with raw := w, mag := toMag (pixMag w) }

/-- The sample enters `RAW` and its thermistor magnitude `MAG` (R149 *Answer Ok*, R123). -/
def loadTherm (w : Word) (s : State) : State := { s with raw := w, mag := toMag (thMag w) }

/-- Read, decode, validate, store, in this order (R141): a pixel outside the window ends the scan with `RANGE` and the words
of the pixels before it (R142); otherwise its output word is stored and `STEP` advances. -/
def scanAnswer (w : Word) (s : State) : State :=
  let t := loadPixel w s
  if violates t.mag.toInt then respond .range (accPrefix t.step.toNat t) t
  else { writeAcc t.step.toNat (outWord t.mag.toInt) t with step := t.step + 1 }

/-- The small steps of `RDTEMPS` (R147). -/
def scanSequence : Sequence where
  request := scanRequest
  answerOk := scanAnswer
  done := fun s => s.step.toNat == s.arg.toNat
  finish := fun s => respond .ok (accPrefix s.arg.toNat s) s

/-- *Accept* of R147: `NOTCONF` before `BADCOUNT` (R150, R168); a refused count issues no request (R145). -/
def acceptRdtemps (count : Byte) (s : State) : State :=
  whenConfigured s (if countLegal count then latch 0x20 count s else respond .badCount [] s)

/-- `RDTEMPS count` (R140). -/
def execRdtemps (count : Byte) (s : State) : Host.Outcome State Fault Refusal :=
  whenIdle s (carryOut scanSequence (acceptRdtemps count s))

/-- The one read of `RDTHERM`, at `STEP = 0` (R149 *Issue*). -/
def thermRequest (s : State) : Option Request :=
  if s.step = 0 then some (readWord s.devAddr regTthl) else none

/-- Decode and store with no validation, and respond with the one word (R148, R149, `42_converter_validator.md` R132). -/
def thermAnswer (w : Word) (s : State) : State :=
  let t := loadTherm w s
  let u := { writeAcc 0 (outWord t.mag.toInt) t with step := 1 }
  respond .ok (accPrefix 1 u) u

/-- The small steps of `RDTHERM` (R149); the answer step ends the command, so there is no *Finish*. -/
def thermSequence : Sequence where
  request := thermRequest
  answerOk := thermAnswer
  done := fun _ => false
  finish := fun s => s

/-- *Accept* of R149, with `NOTCONF` when there is no handle (R150). -/
def acceptRdtherm (s : State) : State := whenConfigured s (latch 0x21 0x00 s)

/-- `RDTHERM` (R148). -/
def execRdtherm (s : State) : Host.Outcome State Fault Refusal :=
  whenIdle s (carryOut thermSequence (acceptRdtherm s))

end Sys2Proof.Machine
end

