-- ==== Sys2Proof/Machine/Dispatch.lean ====
section
/-! DEFINITION. One arm per command: the meaning it calls. -/

namespace Sys2Proof.Machine

/-- Carries out a decoded command on a state whose command word has been taken from the command port. -/
def exec (i : Instr) (s : State) : Host.Outcome State Fault Refusal :=
  match i with
  | .init addr => Sys2Proof.Machine.execInit addr s
  | .setmode value => Sys2Proof.Machine.execSetmode value s
  | .trigrst value => Sys2Proof.Machine.execTrigrst value s
  | .setrate value => Sys2Proof.Machine.execSetrate value s
  | .setint value => Sys2Proof.Machine.execSetint value s
  | .clrstat value => Sys2Proof.Machine.execClrstat value s
  | .rdtemps count => Sys2Proof.Machine.execRdtemps count s
  | .rdtherm => Sys2Proof.Machine.execRdtherm s

end Sys2Proof.Machine
end

