-- ==== Sys2Proof/Machine/Control.lean ====
section
/-! DEFINITION. What the block does at each event: taking a command word from the command port, resuming the command in
progress, and reset. The same at the grain of one transaction (the small-step form of `00_scope.md` R10). -/

namespace Sys2Proof.Machine

/-- The small steps of the command whose opcode is latched in `OP` (`10_state.md` R24). -/
def sequenceOf (op : Byte) : Option Sequence :=
  if op = 0x01 then some initSequence
  else if op = 0x10 then some configSequence
  else if op = 0x11 then some configSequence
  else if op = 0x12 then some configSequence
  else if op = 0x13 then some configSequence
  else if op = 0x15 then some configSequence
  else if op = 0x20 then some scanSequence
  else if op = 0x21 then some thermSequence
  else none

/-- No request is outstanding and neither *Issue* nor *Finish* is enabled. Log 10. -/
def stuck (q : Sequence) (s : State) : Bool :=
  s.pending.isNone && (q.request s).isNone && !q.done s

/-- Carries the command in progress on, when an event has come for it. -/
def resume (s : State) : Host.Outcome State Fault Refusal :=
  match sequenceOf s.op with
  | none => .fault .noRule
  | some q => if stuck q s then .fault .noRule else .next (carryOut q s)

/-- A word that is no command is answered `ILLEGAL`: no request, no change of architectural state
(`60_exceptions.md` R163). -/
def answerIllegal (s : State) : State := respond .illegal [] s

/-- Takes the word `w` from the command port: decode, then the acceptance checks and the command's own effect (R168). -/
def takeCommand (w : Word) (s : State) : Host.Outcome State Fault Refusal :=
  match decode w with
  | .ok i => exec i (recordCommand w s)
  | .error _ => whenIdle s (answerIllegal (recordCommand w s))

/-- The next event and what the block does at it. With no event, an idle block stays idle and a waiting block waits
(`60_exceptions.md` R179). Log 4. -/
def nextEvent (s : State) : Host.Outcome State Fault Refusal :=
  match s.inputs with
  | [] => if s.busy then resume s else .next s
  | .command w :: rest => takeCommand w (setInputs rest s)
  | .reply _ :: _ => if s.busy then resume s else .refused .unsolicitedReply
  | .staleReply _ :: rest => if s.busy then resume s else .next (setInputs rest s)
  | .delay :: rest => if s.busy then resume s else .next (setInputs rest s)
  | .reset :: rest => .next (hardReset (setInputs rest s))

/-- Presents `w` at the command port of an idle block, before every other event. Log 19. -/
def presentCommand (w : Word) (s : State) : State :=
  { s with busy := false, pending := none, inputs := .command w :: s.inputs }

/-- *Accept* of each command (R105, R118, R147, R149). -/
def accept (i : Instr) (s : State) : State :=
  match i with
  | .init addr => acceptInit addr s
  | .setmode value => acceptSetmode value s
  | .trigrst value => acceptTrigrst value s
  | .setrate value => acceptSetrate value s
  | .setint value => acceptSetint value s
  | .clrstat value => acceptClrstat value s
  | .rdtemps count => acceptRdtemps count s
  | .rdtherm => acceptRdtherm s

/-- *Accept* of a command word, an illegal one included. -/
def acceptWord (w : Word) (s : State) : State :=
  match decode w with
  | .ok i => accept i (recordCommand w s)
  | .error _ => answerIllegal (recordCommand w s)

/-- A busy block with the request `r` outstanding meets its next event. -/
def smallAnswer (q : Sequence) (s : State) : Host.Outcome State Fault Refusal :=
  match s.inputs with
  | [] => .next s
  | .command _ :: _ => .refused .commandWhileBusy
  | .reply r :: rest => .next (answer q r (setInputs rest s))
  | .staleReply _ :: rest => .next (setInputs rest s)
  | .delay :: rest => .next (setInputs rest s)
  | .reset :: rest => .next (hardReset (setInputs rest s))

/-- A busy block: *Issue* or *Finish* when no request is outstanding, otherwise the next event. -/
def smallBusy (s : State) : Host.Outcome State Fault Refusal :=
  match sequenceOf s.op with
  | none => .fault .noRule
  | some q =>
    if stuck q s then .fault .noRule
    else match s.pending with
      | none => .next (settle q s)
      | some _ => smallAnswer q s

/-- An idle block meets its next event; a command word is accepted and nothing more. -/
def smallIdle (s : State) : Host.Outcome State Fault Refusal :=
  match s.inputs with
  | [] => .next s
  | .command w :: rest => .next (acceptWord w (setInputs rest s))
  | .reply _ :: _ => .refused .unsolicitedReply
  | .staleReply _ :: rest => .next (setInputs rest s)
  | .delay :: rest => .next (setInputs rest s)
  | .reset :: rest => .next (hardReset (setInputs rest s))

/-- The machine at the grain of decision D21: one accept, issue, answer or finish. Reset comes before the block's next
action. -/
def smallStep (s : State) : Host.Outcome State Fault Refusal :=
  match s.inputs with
  | .reset :: rest => .next (hardReset (setInputs rest s))
  | _ => if s.busy then smallBusy s else smallIdle s

/-- `n` small steps, stopping at the first fault or refusal. -/
def smallRun : Nat → State → Host.Outcome State Fault Refusal
  | 0, s => .next s
  | n + 1, s =>
    match smallStep s with
    | .next t => smallRun n t
    | .fault r => .fault r
    | .refused r => .refused r

end Sys2Proof.Machine
end

