-- ==== Sys2Proof/Machine/Step.lean ====
section
/-! DEFINITION. One step of the block: the next event, and everything the block does at it. -/

namespace Sys2Proof.Machine

/-- One step. At a command word this is the whole command, as far as the events that follow carry it (the big-step rules of
`00_scope.md` R10). Log 3. -/
def step (s : State) : Host.Outcome State Fault Refusal := nextEvent s

/-- The state with the command word given by the opcode table's bit numbers at the command port, so that the very next step
takes it. Log 2, 19. -/
def State.withFetchWord (s : State) (nbits w : Nat) : State := presentCommand (tableWord nbits w) s

end Sys2Proof.Machine
end

