-- ==== Sys2Proof/Machine/Assembler.lean ====
section
/-! DEFINITION. The assembler of `30_encoding.md` R84 to R86 and the host macro `PROBE`. A line is a list of characters.
Log 16, 17. -/

namespace Sys2Proof.Machine

/-- The value of a digit in a base up to 16. -/
def digitValue (base : Nat) (c : Char) : Option Nat :=
  let n := c.toNat
  let v :=
    if 48 ≤ n && n ≤ 57 then n - 48
    else if 97 ≤ n && n ≤ 102 then n - 87
    else if 65 ≤ n && n ≤ 70 then n - 55
    else base
  if v < base then some v else none

/-- Digits in a base, most significant first, after the value read so far. -/
def digitsValue (base : Nat) : List Char → Nat → Option Nat
  | [], acc => some acc
  | c :: rest, acc =>
    match digitValue base c with
    | some v => digitsValue base rest (base * acc + v)
    | none => none

/-- A number of at least one digit. -/
def numberInBase (base : Nat) : List Char → Option Nat
  | [] => none
  | c :: rest => digitsValue base (c :: rest) 0

/-- "a number in decimal, hexadecimal (`0x`) or binary (`0b`)" (R84). -/
def parseNumber : List Char → Option Nat
  | '0' :: 'x' :: rest => numberInBase 16 rest
  | '0' :: 'b' :: rest => numberInBase 2 rest
  | cs => numberInBase 10 cs

/-- The mnemonics of R72 and the pseudo-instruction of R86. -/
def mnemonicTable : List (List Char × Mnemonic) :=
  [ ("INIT".toList, .init), ("SETMODE".toList, .setmode), ("TRIGRST".toList, .trigrst), ("SETRATE".toList, .setrate),
    ("SETINT".toList, .setint), ("CLRSTAT".toList, .clrstat), ("RDTEMPS".toList, .rdtemps), ("RDTHERM".toList, .rdtherm),
    ("RDFRAME".toList, .rdframe) ]

/-- The symbolic operand names of R85, each for its own command: four with the byte the source gives, eight whose byte is an
open parameter. -/
def symbolTable : List (Mnemonic × List Char × Byte) :=
  [ (.setmode, "NORMAL".toList, valNormal),
    (.setmode, "SLEEP".toList, Config.valSleep),
    (.setmode, "STBY_60".toList, Config.valStby60),
    (.setmode, "STBY_10".toList, Config.valStby10),
    (.trigrst, "INITIAL_RST".toList, valInitialRst),
    (.trigrst, "FLAG_RST".toList, Config.valFlagRst),
    (.setrate, "FPS_10".toList, valFps10),
    (.setrate, "FPS_1".toList, Config.valFps1),
    (.setint, "INT_OFF".toList, valIntOff),
    (.setint, "INT_ABS".toList, Config.valIntAbs),
    (.setint, "INT_DIFF".toList, Config.valIntDiff),
    (.clrstat, "SCLR".toList, Config.valSclr) ]

/-- The byte a symbolic name stands for as the operand of a command. -/
def symbolValue (m : Mnemonic) (name : List Char) : Option Byte :=
  (symbolTable.find? (fun row => row.1 == m && row.2.1 == name)).map (fun row => row.2.2)

/-- An operand: a number, or a symbolic name of R85. -/
def parseOperand (m : Mnemonic) (cs : List Char) : Option Nat :=
  match parseNumber cs with
  | some n => some n
  | none => (symbolValue m cs).map BitVec.toNat

/-- Splits a line at its spaces, with the token read so far. -/
def splitSpaces : List Char → List Char → List (List Char)
  | [], [] => []
  | [], token => [token.reverse]
  | ' ' :: rest, [] => splitSpaces rest []
  | ' ' :: rest, token => token.reverse :: splitSpaces rest []
  | c :: rest, token => splitSpaces rest (c :: token)

/-- The mnemonic a token spells. -/
def parseMnemonic (cs : List Char) : Option Mnemonic :=
  (mnemonicTable.find? (fun row => row.1 == cs)).map (fun row => row.2)

/-- "One command per line: the mnemonic of rule R72, then its operand if it has one" (R84). -/
def parseLine (line : List Char) : Option SourceCommand :=
  match splitSpaces line [] with
  | [m] => (parseMnemonic m).map (fun m => { mnemonic := m, operand := none })
  | [m, x] =>
    match parseMnemonic m with
    | some m => (parseOperand m x).map (fun n => { mnemonic := m, operand := some n })
    | none => none
  | _ => none

/-- The instruction a well-formed source command stands for; `RDFRAME` expands to `RDTEMPS 64` (R86). -/
def sourceInstr (c : SourceCommand) : Option Instr :=
  if c.wellFormed then
    let n := c.operand.getD 0
    match c.mnemonic with
    | .init => some (.init (BitVec.ofNat 7 n))
    | .setmode => some (.setmode (BitVec.ofNat 8 n))
    | .trigrst => some (.trigrst (BitVec.ofNat 8 n))
    | .setrate => some (.setrate (BitVec.ofNat 8 n))
    | .setint => some (.setint (BitVec.ofNat 8 n))
    | .clrstat => some (.clrstat (BitVec.ofNat 8 n))
    | .rdtemps => some (.rdtemps (BitVec.ofNat 8 n))
    | .rdtherm => some .rdtherm
    | .rdframe => some (.rdtemps 64)
  else none

/-- The word a line assembles to; none where the assembler refuses it. -/
def assemble (line : List Char) : Option Word :=
  match parseLine line with
  | some c => (sourceInstr c).map encode
  | none => none

/-- The host macro `PROBE` (R86, `70_reset_and_hazards.md` R194): the next command word, by the statuses of the responses
so far. It sends `INIT 0x69`; if that is answered `TRANSPORT` it sends `INIT 0x68`. -/
def probe : List Status → Option Word
  | [] => some (encode (.init 0x69))
  | [.transport] => some (encode (.init 0x68))
  | _ => none

end Sys2Proof.Machine
end

