-- ==== Sys2Proof/Machine/View.lean ====
section
/-! DEFINITION. What a host reads out of a response: the source's results in degrees Celsius (`30_encoding.md` R82, R83;
`42_converter_validator.md` R125 to R128), as exact rationals (log 20); and when a run has ended (log 21). -/

namespace Sys2Proof.Machine

/-- A pixel output word: `signed_16(word) * 0.25` degC (R125). -/
def pixelCelsius (w : Word) : Rat := (w.toInt : Rat) * (1 / 4)

/-- A thermistor output word: `signed_16(word) * 0.0625` degC (R126). -/
def thermCelsius (w : Word) : Rat := (w.toInt : Rat) * (1 / 16)

/-- `read_temperatures(count) -> (errored, values)` from the response to `RDTEMPS`; a response with another status carries
no result of the source's (R83). -/
def readTemperatures (r : Response) : Option (Bool × List Rat) :=
  match r.status with
  | .ok => some (false, r.data.map pixelCelsius)
  | .range => some (true, r.data.map pixelCelsius)
  | .transport => none
  | .illegal => none
  | .notConf => none
  | .badCount => none

/-- `read_thermistor()` from the response to `RDTHERM` (R83). -/
def readThermistor (r : Response) : Option Rat :=
  match r.status, r.data with
  | .ok, [w] => some (thermCelsius w)
  | _, _ => none

/-- The partial array of a `RANGE` response is unusable: the values a host may use (`70_reset_and_hazards.md` R197). -/
def usableTemperatures (r : Response) : Option (List Rat) :=
  match r.status with
  | .ok => some (r.data.map pixelCelsius)
  | .range => none
  | .transport => none
  | .illegal => none
  | .notConf => none
  | .badCount => none

/-- A command word, as an event still to come. -/
def isCommand : Input → Bool
  | .command _ => true
  | .reply _ => false
  | .staleReply _ => false
  | .delay => false
  | .reset => false

/-- Every command taken from the port has had its response. A command abandoned by a reset never gets one
(`70_reset_and_hazards.md` R191). Log 21. -/
def allAnswered (s : State) : Bool := s.responses.length == s.commands.length

/-- The run has ended: no command is to come, "the last command's response has been emitted and `BUSY = 0`"
(`70_reset_and_hazards.md` R204). Log 21. -/
def runEnded (s : State) : Bool := !s.busy && allAnswered s && !s.inputs.any isCommand

end Sys2Proof.Machine
end

