-- ==== Sys2Proof/Safety.lean ====
section
/-! DEFINITION. The terms claims are stated in: the requests and responses the block may produce, the invariant of every
step, and what the world outside can tell apart. -/

namespace Sys2Proof.Machine

/-- The four writes of the construction table to a device, in order (`10_state.md` R34). -/
def initWrites (dev : DevAddr) : List Request := initRom.map (fun e => writeByte dev e.1 e.2)

/-- The reads of pixels `0 .. n-1`, in index order (`20_memory.md` R46). -/
def pixelReads (dev : DevAddr) (n : Nat) : List Request := (List.range n).map (fun i => readWord dev (pixelReg i))

/-- The answer `Ok(w)`; for a write the word is ignored (R89). -/
def okReply (w : Word) : Input := .reply { err := false, data := w }

/-- The answer `Err`; its data is ignored (R89). -/
def errReply (w : Word) : Input := .reply { err := true, data := w }

/-- A raw sample that passes the validator. -/
def accepted (raw : Word) : Bool := !violates (pixMag raw)

/-- The output word of a raw pixel sample. -/
def pixWord (raw : Word) : Word := outWord (pixMag raw)

/-- The output word of a raw thermistor sample. -/
def thWord (raw : Word) : Word := outWord (thMag raw)

/-- How many of the 65536 words have a property. -/
def countWords (p : Word → Bool) : Nat := (Finset.univ.filter (fun w : Word => p w = true)).card

/-- The requests the block can ever put on the transport: the registers of R62, each with its one access (R48), in the form
R88 gives a write and a read. -/
def legalRequest (r : Request) : Bool :=
  match r.kind with
  | .writeByte =>
    r.le == false && (r.reg == 0x00 || r.reg == 0x01 || r.reg == 0x02 || r.reg == 0x03 || r.reg == 0x05)
  | .readWord => r.le == true && r.val == 0x00 && (r.reg == 0x0E || (List.range 64).any (fun i => r.reg == pixelReg i))

/-- A word a pixel response may hold: its value lies in `[-80, 400]` (`10_state.md` R36 c). -/
def inWindow (w : Word) : Bool := decide (-80 ≤ w.toInt) && decide (w.toInt ≤ 400)

/-- A word a thermistor response may hold: its value lies in `[-2047, 2047]` (`42_converter_validator.md` R126). -/
def inThermRange (w : Word) : Bool := decide (-2047 ≤ w.toInt) && decide (w.toInt ≤ 2047)

/-- The responses the block can ever emit (`30_encoding.md` R80, R81): at most 64 data words, none with the statuses that
carry none; the words of a partial array, and of an array of another length than one, in the pixel window. -/
def legalResponse (r : Response) : Bool :=
  match r.status with
  | .ok => r.data.length ≤ 64 && r.data.all inThermRange && (r.data.length == 1 || r.data.all inWindow)
  | .range => r.data.length ≤ 63 && r.data.all inWindow
  | .transport => r.data.isEmpty
  | .illegal => r.data.isEmpty
  | .notConf => r.data.isEmpty
  | .badCount => r.data.isEmpty

/-- The command in progress is the legal command latched in `OP` and `ARG` (R24), `PHASE` and `DEV_ADDR` are what it needs
(R36 d, R100), and `STEP` is in the command's range (R25). -/
def commandInFlight (s : State) : Bool :=
  match decode (wordOf s.op s.arg) with
  | .error _ => false
  | .ok (.init addr) => s.phase == .uninit && s.devAddr == addr && s.step.toNat ≤ 4
  | .ok (.setmode _) => s.phase == .configured && s.step == 0
  | .ok (.trigrst _) => s.phase == .configured && s.step == 0
  | .ok (.setrate _) => s.phase == .configured && s.step == 0
  | .ok (.setint _) => s.phase == .configured && s.step == 0
  | .ok (.clrstat _) => s.phase == .configured && s.step == 0
  | .ok (.rdtemps count) => s.phase == .configured && countLegal count && s.step.toNat ≤ count.toNat
  | .ok .rdtherm => s.phase == .configured && s.step == 0

/-- The request `STEP` names for the command in progress. -/
def nextRequest (s : State) : Option Request :=
  match sequenceOf s.op with
  | some q => q.request s
  | none => none

/-- What holds in every state a run reaches (`10_state.md` R36; `20_memory.md` R54, R62). -/
structure BlockInv (s : State) : Prop where
  /-- R36 b. -/
  idle_quiet : s.busy = false → s.pending = none
  /-- R24, R25, R36 c and d. -/
  in_flight : s.busy = true → commandInFlight s = true
  /-- The outstanding request is the one `STEP` names. -/
  pending_named : ∀ r, s.pending = some r → nextRequest s = some r
  /-- R36 c. -/
  acc_window : s.busy = true → s.op = 0x20 → ∀ w ∈ accPrefix s.step.toNat s, inWindow w = true
  /-- R36 a: a handle exists only when the four writes to its address took effect. -/
  handle_built : s.phase = .configured → (initWrites s.devAddr).Sublist s.delivered
  /-- The writes of a construction in progress that were answered `Ok` took effect. -/
  handle_growing : s.busy = true → s.op = 0x01 →
    ((initWrites s.devAddr).take s.step.toNat).Sublist s.delivered
  /-- R62. -/
  trace_legal : ∀ r ∈ s.trace, legalRequest r = true
  /-- Nothing takes effect that was not sent, in the order sent (R54). -/
  delivered_sent : (s.delivered ++ s.pending.toList).Sublist s.trace
  /-- R80, R81. -/
  responses_legal : ∀ r ∈ s.responses, legalResponse r = true
  /-- R70, R80: no response without a command, and the command in progress has had none. -/
  responses_owed : s.responses.length + s.busy.toNat ≤ s.commands.length

/-- The two states differ at most in registers no rule reads before it writes them: in-flight registers while idle, the
entries of `ACC` a scan in progress has not stored, `RAW`, `MAG`, and a dead `DEV_ADDR` (`10_state.md` R20, R22, R35). -/
structure SameOutside (s t : State) : Prop where
  phase : s.phase = t.phase
  devAddr : s.phase = .configured ∨ s.busy = true → s.devAddr = t.devAddr
  busy : s.busy = t.busy
  pending : s.pending = t.pending
  inputs : s.inputs = t.inputs
  commands : s.commands = t.commands
  trace : s.trace = t.trace
  delivered : s.delivered = t.delivered
  responses : s.responses = t.responses
  draws : s.draws = t.draws
  op : s.busy = true → s.op = t.op
  arg : s.busy = true → s.arg = t.arg
  step : s.busy = true → s.step = t.step
  acc : s.busy = true → s.op = 0x20 → accPrefix s.step.toNat s = accPrefix s.step.toNat t

/-- Two outcomes the world outside cannot tell apart. -/
def sameOutcome : Host.Outcome State Fault Refusal → Host.Outcome State Fault Refusal → Prop
  | .next s, .next t => SameOutside s t
  | .fault a, .fault b => a = b
  | .refused a, .refused b => a = b
  | _, _ => False

end Sys2Proof.Machine
end

