-- ==== Sys2Proof/Certificates/Slice0/Obligations.lean ====
section
/-! DEFINITION. The statements about the model, for the provers. Each docstring names the rules of the spec it comes from. -/

open Sys2Proof Sys2Proof.Machine

namespace Sys2Proof.Claims

/-- An idle block with no request outstanding, as every reachable idle state is (`10_state.md` R36 b). -/
def Idle (s : State) : Prop := s.busy = false ∧ s.pending = none

/-- What `exec` of the configuration command `mk`, with opcode `op` and register `reg`, leaves after each answer to its one
write (R115, R116). -/
def ConfigEffect (mk : Byte → Instr) (op reg : Byte) : Prop :=
  ∀ (s : State) (v : Byte) (w : Word) (rest : List Input), Idle s → s.phase = .configured →
    (s.inputs = okReply w :: rest →
      exec (mk v) s = .next { s with
        op := op, arg := v, step := 1, inputs := rest
        trace := s.trace ++ [writeByte s.devAddr reg v]
        delivered := s.delivered ++ [writeByte s.devAddr reg v]
        responses := s.responses ++ [{ status := .ok, data := [] }] }) ∧
    (s.inputs = errReply w :: rest →
      exec (mk v) s = .next { s with
        op := op, arg := v, step := 0, inputs := rest
        trace := s.trace ++ [writeByte s.devAddr reg v]
        delivered := if Config.deliveryDraw s.draws then s.delivered ++ [writeByte s.devAddr reg v] else s.delivered
        draws := s.draws + 1
        responses := s.responses ++ [{ status := .transport, data := [] }] })

/-- What every run of the configuration command `mk` to register `reg` leaves as it was, and what it may put on the bus. -/
def ConfigFrame (mk : Byte → Instr) (reg : Byte) : Prop :=
  ∀ (s t : State) (v : Byte), s.pending = none → exec (mk v) s = .next t →
    (t.trace = s.trace ∨ t.trace = s.trace ++ [writeByte s.devAddr reg v]) ∧
    t.phase = s.phase ∧ t.devAddr = s.devAddr ∧ t.acc = s.acc ∧ t.raw = s.raw ∧ t.mag = s.mag

/-- `t` is `s` after a scan of `count` pixels that stored the output words of `good` and sent `n` reads, up to the registers
the statement names itself. -/
def AfterScan (s t : State) (count : Byte) (good : List Word) (n : Nat) (rest : List Input) : Prop :=
  t.phase = s.phase ∧ t.devAddr = s.devAddr ∧ t.busy = false ∧ t.pending = none ∧
  t.op = 0x20 ∧ t.arg = count ∧ t.step.toNat = good.length ∧ t.inputs = rest ∧
  t.trace = s.trace ++ pixelReads s.devAddr n ∧
  (∀ (i : Nat) (h : i < 64), t.acc[i] = ((good.map pixWord)[i]?).getD s.acc[i])

/-- The registers of R62, by their numbers. -/
def busRegisters : List Byte :=
  [0x00, 0x01, 0x02, 0x03, 0x05, 0x0E] ++ (List.range 64).map (fun i => BitVec.ofNat 8 (0x80 + 2 * i))

/-- The command is `INIT`. -/
def isInit : Instr → Bool
  | .init _ => true
  | .setmode _ => false
  | .trigrst _ => false
  | .setrate _ => false
  | .setint _ => false
  | .clrstat _ => false
  | .rdtemps _ => false
  | .rdtherm => false

/-- The first request a command makes of the device `dev`; `INIT` makes its own of the address it carries (R34, R45 to R47). -/
def firstRequest (dev : DevAddr) : Instr → Request
  | .init addr => writeByte addr 0x00 0x00
  | .setmode value => writeByte dev 0x00 value
  | .trigrst value => writeByte dev 0x01 value
  | .setrate value => writeByte dev 0x02 value
  | .setint value => writeByte dev 0x03 value
  | .clrstat value => writeByte dev 0x05 value
  | .rdtemps _ => readWord dev 0x80
  | .rdtherm => readWord dev 0x0E

/-- An event that gives a waiting block nothing to act on: time passing, or an answer to a request a reset abandoned. -/
def isQuiet : Input → Bool
  | .command _ => false
  | .reply _ => false
  | .staleReply _ => true
  | .delay => true
  | .reset => false

/-- From `s` to `t` a command went on and got no response, or ended and got exactly one, whose data words are the first
entries of `ACC`. -/
def RespondsOnce (s t : State) : Prop :=
  (t.busy = true ∧ t.responses = s.responses) ∨
  (t.busy = false ∧ ∃ r, t.responses = s.responses ++ [r] ∧ legalResponse r = true ∧ r.data = accPrefix r.data.length t)

/-- From `s` to `t` a scan of `count` pixels ended: every word of its one response lies in the window, and there are `count`
of them when the status is `OK`. -/
def ScanResponse (s t : State) (count : Nat) : Prop :=
  ∃ r, t.responses = s.responses ++ [r] ∧ (∀ w ∈ r.data, inWindow w = true) ∧ (r.status = .ok → r.data.length = count)

/-- How many commands have had no response and will get none: those a reset abandoned (R191). -/
def abandoned (s : State) : Nat := s.commands.length - (s.responses.length + s.busy.toNat)

/-- The next event is one that `INIT` or reset acts on: a reset, an `INIT` word, or anything while an `INIT` is in progress. -/
def initOrReset (s : State) : Bool :=
  (s.busy && s.op == 0x01) ||
  match s.inputs with
  | [] => false
  | .reset :: _ => true
  | .command w :: _ => match decode w with
    | .ok i => isInit i
    | .error _ => false
  | .reply _ :: _ => false
  | .staleReply _ :: _ => false
  | .delay :: _ => false

end Sys2Proof.Claims

open Sys2Proof.Claims

/-! ### Encoding -/

/-- Words written out from R72, R84 and part 2.1 of the test vectors decode as the spec says; one or more per format. -/
def Obligations.SpecWordsDecode : Prop :=
  decode 0b0000000101101001 = .ok (.init 0x69) ∧ decode 0b0000000101111111 = .ok (.init 0x7F) ∧
  decode 0b0001000000000000 = .ok (.setmode 0x00) ∧ decode 0b0001000100111111 = .ok (.trigrst 0x3F) ∧
  decode 0b0001001000000001 = .ok (.setrate 0x01) ∧ decode 0b0001001100000000 = .ok (.setint 0x00) ∧
  decode 0b0001010100000110 = .ok (.clrstat 0x06) ∧ decode 0b0010000001000000 = .ok (.rdtemps 64) ∧
  decode 0b0010000000000000 = .ok (.rdtemps 0) ∧ decode 0b0010000100000000 = .ok .rdtherm ∧
  decode 0x0180 = .error .initBit7 ∧ decode 0x2101 = .error .thermOperand ∧
  decode 0x1400 = .error (.opcode 0x14) ∧ decode 0x0000 = .error (.opcode 0x00)

/-- Every instruction, with every operand, is read back from its word (R70 to R76, R87). -/
def Obligations.DecodeOfEncode : Prop := ∀ i : Instr, decode (encode i) = .ok i

/-- A word that decodes is the word of what it decodes to: no two words are the same command (R70, R72). -/
def Obligations.EncodeOfDecode : Prop := ∀ (w : Word) (i : Instr), decode w = .ok i → encode i = w

/-- The decoder accepts a word exactly when it fits a row of the opcode table, and no word fits two rows (R72, R79). -/
def Obligations.DecoderAgreesWithTable : Prop :=
  (∀ w : Word, (∃ i, decode w = .ok i) ↔ wordWellFormed w = true) ∧
  (∀ w : Word, (opcodeRows.filter (fun r => r.fits w)).length ≤ 1)

/-- R77 and R163: which words are illegal, how many, and what an idle block does at one in either phase: it answers
`ILLEGAL` with no data and changes no register. -/
def Obligations.IllegalWordsExactly : Prop :=
  (∀ w : Word, (∃ e, decode w = .error e) ↔
    (opField w ∉ ([0x01, 0x10, 0x11, 0x12, 0x13, 0x15, 0x20, 0x21] : List Byte) ∨
      (opField w = 0x01 ∧ (argField w).getLsbD 7 = true) ∨ (opField w = 0x21 ∧ argField w ≠ 0x00))) ∧
  (∀ (s : State) (w : Word) (e : Illegal) (rest : List Input), s.busy = false → s.inputs = .command w :: rest →
    decode w = .error e →
    step s = .next { s with
      inputs := rest, commands := s.commands ++ [w]
      responses := s.responses ++ [{ status := .illegal, data := [] }] }) ∧
  countWords wordWellFormed = 1665 ∧ countWords (fun w => !wordWellFormed w) = 63871

/-- R88: the packed request has its five fields at their bits, in the form the rule gives a write and a read; a request of a
command in progress has that form, with `dev = DEV_ADDR`; and the two examples. -/
def Obligations.RequestPacking : Prop :=
  (∀ r : Request, r.pack.getLsbD 24 = (r.kind == .readWord) ∧ r.pack.getLsbD 23 = r.le ∧
    r.pack.extractLsb' 16 7 = r.dev ∧ r.pack.extractLsb' 8 8 = r.reg ∧ r.pack.extractLsb' 0 8 = r.val) ∧
  (∀ (dev : DevAddr) (reg val : Byte), (writeByte dev reg val).pack.extractLsb' 23 2 = 0b00 ∧
    (writeByte dev reg val).dev = dev ∧ (writeByte dev reg val).reg = reg ∧ (writeByte dev reg val).val = val ∧
    (readWord dev reg).pack.extractLsb' 23 2 = 0b11 ∧ (readWord dev reg).dev = dev ∧ (readWord dev reg).reg = reg ∧
    (readWord dev reg).val = 0x00) ∧
  (∀ (s : State) (r : Request), nextRequest s = some r →
    r = writeByte s.devAddr r.reg r.val ∨ r = readWord s.devAddr r.reg) ∧
  (writeByte 0x69 0x01 0x3F).pack = 0x069013F ∧ (readWord 0x69 0x80).pack = 0x1E98000

/-- R89: the packed reply has its two fields at their bits and is read back whole, both ways; `data` is ignored when
`err = 1` and for a write, and for a read it is the raw sample. -/
def Obligations.ReplyPacking : Prop :=
  (∀ r : Reply, r.pack.getLsbD 16 = r.err ∧ r.pack.extractLsb' 0 16 = r.data ∧ Reply.unpack r.pack = r) ∧
  (∀ v : BitVec 17, (Reply.unpack v).pack = v) ∧
  (∀ (q : Sequence) (s : State) (a b : Reply), a.err = true → b.err = true → answer q a s = answer q b s) ∧
  (∀ (s : State) (a b : Reply), a.err = false → b.err = false →
    answer initSequence a s = answer initSequence b s ∧ answer configSequence a s = answer configSequence b s) ∧
  (∀ (s : State) (a : Reply), a.err = false → s.pending.isSome = true →
    (answer scanSequence a s).raw = a.data ∧ (answer thermSequence a s).raw = a.data)

/-- The response headers of part 2.2 of the test vectors. -/
def Obligations.HeaderTable : Prop :=
  ({ status := .ok, data := [] } : Response).hdr = 0x0000 ∧
  ({ status := .ok, data := [0] } : Response).hdr = 0x0001 ∧
  ({ status := .ok, data := List.replicate 64 0 } : Response).hdr = 0x0040 ∧
  ({ status := .range, data := [] } : Response).hdr = 0x1000 ∧
  ({ status := .range, data := List.replicate 5 0 } : Response).hdr = 0x1005 ∧
  ({ status := .range, data := List.replicate 63 0 } : Response).hdr = 0x103F ∧
  ({ status := .transport, data := [] } : Response).hdr = 0x2000 ∧
  ({ status := .illegal, data := [] } : Response).hdr = 0x3000 ∧
  ({ status := .notConf, data := [] } : Response).hdr = 0x4000 ∧
  ({ status := .badCount, data := [] } : Response).hdr = 0x5000

/-- R80: a command's response is one message, its header word with `status` in 15:12, zero in 11:7 and the number of data
words in 6:0, then the data words, which are the first entries of `ACC`; and a command gets at most one response, exactly one
when it ends, in the step that takes it from the port or in a later one that carries it on; no other step emits any. -/
def Obligations.OneResponsePerCommand : Prop :=
  (∀ (i : Instr) (s t : State), exec i s = .next t → RespondsOnce s t) ∧
  (∀ s t : State, BlockInv s → step s = .next t →
    (s.busy = true → s.inputs.head? ≠ some .reset → RespondsOnce s t) ∧
    (s.busy = false → ∀ w, s.inputs.head? = some (.command w) → RespondsOnce s t) ∧
    (s.busy = false → (∀ w, s.inputs.head? ≠ some (.command w)) → t.busy = false ∧ t.responses = s.responses) ∧
    (s.inputs.head? = some .reset → t.busy = false ∧ t.responses = s.responses)) ∧
  (∀ r : Response, legalResponse r = true →
    r.words = r.hdr :: r.data ∧ r.hdr.extractLsb' 12 4 = r.status.code ∧ r.hdr.extractLsb' 7 5 = 0 ∧
    (r.hdr.extractLsb' 0 7).toNat = r.data.length ∧ r.data.length ≤ 64)

/-- R84 (its examples), R85 (the four given bytes), the refusals of R84, and the masking of a setter's unbounded operand
(R74). That `SLEEP` and `INT_ABS` are operand names, for the open parameters `VAL_SLEEP` and `VAL_INT_ABS`, and that `NORMAL`
is no operand of `SETRATE`, is the model's choice: log 16. -/
def Obligations.AssemblerReadsLines : Prop :=
  assemble "INIT 0x69".toList = some 0x0169 ∧ assemble "SETMODE 0x00".toList = some 0x1000 ∧
  assemble "TRIGRST 0x3F".toList = some 0x113F ∧ assemble "SETRATE 0x01".toList = some 0x1201 ∧
  assemble "SETINT 0b0".toList = some 0x1300 ∧ assemble "CLRSTAT 6".toList = some 0x1506 ∧
  assemble "RDTEMPS 64".toList = some 0x2040 ∧ assemble "RDTHERM".toList = some 0x2100 ∧
  assemble "INIT 0x80".toList = none ∧ assemble "SETMODE 256".toList = none ∧ assemble "RDTEMPS 255".toList = some 0x20FF ∧
  assemble "SETMODE NORMAL".toList = some 0x1000 ∧ assemble "TRIGRST INITIAL_RST".toList = some 0x113F ∧
  assemble "SETINT INT_OFF".toList = some 0x1300 ∧ assemble "SETRATE FPS_10".toList = some 0x1200 ∧
  symbolValue .setmode "SLEEP".toList = some Config.valSleep ∧ symbolValue .setint "INT_ABS".toList = some Config.valIntAbs ∧
  symbolValue .setrate "NORMAL".toList = none ∧ (∀ n : Int, ((setterByte n).toNat : Int) = n % 256)

/-- R86: `RDFRAME` is `RDTEMPS 64`, and `PROBE` tries `INIT 0x69`, then `INIT 0x68` on `TRANSPORT` alone. -/
def Obligations.PseudoInstructions : Prop :=
  assemble "RDFRAME".toList = some 0x2040 ∧ probe [] = some 0x0169 ∧ probe [.transport] = some 0x0168 ∧
  (∀ st : Status, st ≠ .transport → probe [st] = none)

/-! ### The converter and the validator -/

/-- R121: the sign test, its equivalent forms, and what both decoders return when it is true. -/
def Obligations.SignTest : Prop :=
  ∀ raw : Word,
    (low11 raw = true ↔ raw &&& 0x7FF = raw) ∧ (low11 raw = true ↔ raw.extractLsb' 11 5 = 0) ∧
    (low11 raw = true ↔ raw.toNat < 2048) ∧ (low11 raw = true ↔ raw.toNat ≤ 0x07FF) ∧
    (low11 raw = true → pixMag raw = raw.toNat ∧ thMag raw = raw.toNat)

/-- R122: the pixel decoder over the integers; between 0x0800 and 0x0FFF it is the 12-bit two's-complement reading, from
0x1000 on it is not negative. -/
def Obligations.PixelDecode : Prop :=
  (∀ raw : Word,
    (raw &&& 0x7FF = raw → pixMag raw = raw.toNat) ∧ (raw &&& 0x7FF ≠ raw → pixMag raw = (raw.toNat : Int) - 4096) ∧
    (0x0800 ≤ raw.toNat → raw.toNat ≤ 0x0FFF → pixMag raw = (raw.setWidth 12).toInt) ∧
    (0x1000 ≤ raw.toNat → 0 ≤ pixMag raw)) ∧
  pixMag 0x0190 = 400 ∧ pixMag 0x0FFF = -1 ∧ pixMag 0x0800 = -2048 ∧ pixMag 0x1000 = 0 ∧ pixMag 0xFFFF = 61439

/-- R123: the thermistor decoder reads bits 10..0 as a magnitude, negative when any bit of 15..11 is set, whichever. -/
def Obligations.ThermDecode : Prop :=
  (∀ raw : Word,
    (raw &&& 0x7FF = raw → thMag raw = raw.toNat) ∧
    (raw &&& 0x7FF ≠ raw → thMag raw = -((raw &&& 0x7FF).toNat : Int) ∧ -2047 ≤ thMag raw ∧ thMag raw ≤ 0)) ∧
  (∀ raw raw' : Word, raw &&& 0x7FF ≠ raw → raw' &&& 0x7FF ≠ raw' → raw &&& 0x7FF = raw' &&& 0x7FF →
    thMag raw = thMag raw') ∧
  thMag 0x0190 = 400 ∧ thMag 0x0801 = -1 ∧ thMag 0x0FFF = -2047 ∧ thMag 0x8001 = -1 ∧ thMag 0x0800 = 0 ∧ thMag 0xF800 = 0

/-- R136: the 31 samples 0x0800, 0x1000, .., 0xF800 decode to plain zero, output word 0x0000. -/
def Obligations.NegativeZero : Prop :=
  ∀ raw : Word,
    ((low11 raw = false ∧ raw &&& 0x7FF = 0) ↔ (∃ k, 1 ≤ k ∧ k ≤ 31 ∧ raw.toNat = 0x0800 * k)) ∧
    (low11 raw = false ∧ raw &&& 0x7FF = 0 → thMag raw = 0 ∧ thWord raw = 0x0000)

/-- R124: the ranges of both decoders, which integers are reached and how often, and that `MAG` never overflows. -/
def Obligations.DecoderRanges : Prop :=
  (∀ raw : Word, -2048 ≤ pixMag raw ∧ pixMag raw ≤ 61439 ∧ -2047 ≤ thMag raw ∧ thMag raw ≤ 2047) ∧
  pixMag 0x0800 = -2048 ∧ pixMag 0xFFFF = 61439 ∧ thMag 0x07FF = 2047 ∧
  (∀ m : Int, -2048 ≤ m → m ≤ 61439 → ∃ raw, pixMag raw = m) ∧
  (∀ (m : Int) (raw : Word), 0 ≤ m → m ≤ 2047 →
    (pixMag raw = m ↔ (raw.toNat : Int) = m ∨ (raw.toNat : Int) = m + 4096)) ∧
  (∀ (m : Int) (raw : Word), m < 0 ∨ 2047 < m → (pixMag raw = m ↔ 0x0800 ≤ raw.toNat ∧ (raw.toNat : Int) = m + 4096)) ∧
  (∀ raw : Word, thMag raw = -2047 ↔ raw &&& 0x7FF = 0x7FF ∧ raw.extractLsb' 11 5 ≠ 0) ∧
  (∀ raw : Word, (toMag (pixMag raw)).toInt = pixMag raw ∧ (toMag (thMag raw)).toInt = thMag raw) ∧
  (∀ raw : Word, 0x9000 ≤ raw.toNat ↔ 32768 ≤ pixMag raw) ∧
  (∀ raw : Word, 0x9000 ≤ raw.toNat → violates (pixMag raw) = true)

/-- Where the two decoders agree: 0x0000..0x07FF, 0x0C00 and 0x1000, and nowhere else (`90_conflicts.md` C10, part 2.6 of the
test vectors); their signs from 0x1000 on (R134 b). -/
def Obligations.DecodersAgreeOnly : Prop :=
  ∀ raw : Word, (pixMag raw = thMag raw ↔ raw.toNat ≤ 0x07FF ∨ raw = 0x0C00 ∨ raw = 0x1000) ∧
    (0x1000 ≤ raw.toNat → 0 ≤ pixMag raw ∧ thMag raw ≤ 0)

/-- R131: the raw samples RV accepts, as two intervals, and how many they are. -/
def Obligations.AcceptedSamples : Prop :=
  (∀ raw : Word, accepted raw = true ↔ raw.toNat ≤ 0x0190 ∨ (0x0FB0 ≤ raw.toNat ∧ raw.toNat ≤ 0x1190)) ∧
  countWords accepted = 882 ∧ countWords (fun raw => !accepted raw) = 64654

/-- R129, R130: RV's comparisons; its integer thresholds are the source's -20.0 degC and 100.0 degC, both bounds accepted. -/
def Obligations.ThresholdsInCelsius : Prop :=
  (∀ mag : Int, (violates mag = true ↔ mag < -80 ∨ 400 < mag) ∧
    (violates mag = true ↔ (mag : Rat) * (1 / 4) < -20 ∨ (mag : Rat) * (1 / 4) > 100) ∧
    (violates mag = false ↔ -20 ≤ (mag : Rat) * (1 / 4) ∧ (mag : Rat) * (1 / 4) ≤ 100)) ∧
  violates (pixMag 0x0190) = false ∧ violates (pixMag 0x0191) = true ∧ violates (-80) = false ∧ violates (-81) = true

/-- R125: the output word of an accepted pixel holds its magnitude in units of 0.25 degC, and the words that can appear. -/
def Obligations.PixelOutputWord : Prop :=
  (∀ raw : Word, accepted raw = true →
    (pixWord raw).toInt = pixMag raw ∧ pixelCelsius (pixWord raw) = (pixMag raw : Rat) * (1 / 4) ∧
    (0xFFB0 ≤ (pixWord raw).toNat ∨ (pixWord raw).toNat ≤ 0x0190)) ∧
  outWord 400 = 0x0190 ∧ outWord 100 = 0x0064 ∧ outWord (-1) = 0xFFFF ∧ outWord (-80) = 0xFFB0

/-- R126: the output word of every thermistor sample holds its magnitude in units of 0.0625 degC, and the words that can
appear. -/
def Obligations.ThermOutputWord : Prop :=
  (∀ raw : Word,
    (thWord raw).toInt = thMag raw ∧ thermCelsius (thWord raw) = (thMag raw : Rat) * (1 / 16) ∧
    (0xF801 ≤ (thWord raw).toNat ∨ (thWord raw).toNat ≤ 0x07FF)) ∧
  outWord 400 = 0x0190 ∧ outWord (-1) = 0xFFFF ∧ outWord (-2047) = 0xF801

/-- What the host reads from a whole frame is the source's result: `errored = false` and each pixel's temperature (R83,
R128); the partial array of a `RANGE` response is flagged and not usable (R83, R197); `errored` is the status `RANGE`; and
what it reads from a thermistor response is the thermistor's temperature. -/
def Obligations.HostReadsFrame : Prop :=
  (∀ words : List Word, (∀ w ∈ words, accepted w = true) →
    readTemperatures { status := .ok, data := words.map pixWord } =
      some (false, words.map (fun w => (pixMag w : Rat) * (1 / 4))) ∧
    readTemperatures { status := .range, data := words.map pixWord } =
      some (true, words.map (fun w => (pixMag w : Rat) * (1 / 4))) ∧
    usableTemperatures { status := .range, data := words.map pixWord } = none) ∧
  (∀ (r : Response) (e : Bool) (values : List Rat), readTemperatures r = some (e, values) → e = r.errored) ∧
  (∀ raw : Word, readThermistor { status := .ok, data := [thWord raw] } = some ((thMag raw : Rat) * (1 / 16)))

/-! ### The commands -/

/-- R100: `INIT` with four `Ok` answers: four writes in the order of the table, `PHASE = CONFIGURED`, `DEV_ADDR = addr`,
response `OK`; in either phase. The next event is not a reset, which would come before the command finishes. -/
def Obligations.InitBuildsHandle : Prop :=
  ∀ (s : State) (addr : DevAddr) (w0 w1 w2 w3 : Word) (rest : List Input), Idle s →
    s.inputs = okReply w0 :: okReply w1 :: okReply w2 :: okReply w3 :: rest → rest.head? ≠ some .reset →
    exec (.init addr) s = .next { s with
      phase := .configured, devAddr := addr, op := 0x01, arg := addrArg addr, step := 4, inputs := rest
      trace := s.trace ++ [writeByte addr 0x00 0x00, writeByte addr 0x01 0x3F, writeByte addr 0x03 0x00,
        writeByte addr 0x02 0x00]
      delivered := s.delivered ++ [writeByte addr 0x00 0x00, writeByte addr 0x01 0x3F, writeByte addr 0x03 0x00,
        writeByte addr 0x02 0x00]
      responses := s.responses ++ [{ status := .ok, data := [] }] }

/-- R102: `INIT` stops at the first write answered `Err`: the later writes are not issued, the earlier ones stay delivered,
`PHASE = UNINIT`, response `TRANSPORT`; an old handle does not survive (R103). -/
def Obligations.InitFailsAtFirstErr : Prop :=
  ∀ (s : State) (addr : DevAddr) (oks : List Word) (w : Word) (rest : List Input), Idle s → oks.length ≤ 3 →
    s.inputs = oks.map okReply ++ errReply w :: rest →
    exec (.init addr) s = .next { s with
      phase := .uninit, devAddr := addr, op := 0x01, arg := addrArg addr, step := BitVec.ofNat 7 oks.length
      inputs := rest
      trace := s.trace ++ (initWrites addr).take (oks.length + 1)
      delivered := s.delivered ++ (initWrites addr).take (oks.length +
        if Config.deliveryDraw s.draws then 1 else 0)
      draws := s.draws + 1
      responses := s.responses ++ [{ status := .transport, data := [] }] }

/-- R115, R116 for the five configuration commands, each to its own register (R110 to R114): one write of the operand byte
unchanged, `OK` or `TRANSPORT`, and no architectural state changed either way. -/
def Obligations.ConfigWritesOnce : Prop :=
  ConfigEffect .setmode 0x10 0x00 ∧ ConfigEffect .trigrst 0x11 0x01 ∧ ConfigEffect .setrate 0x12 0x02 ∧
  ConfigEffect .setint 0x13 0x03 ∧ ConfigEffect .clrstat 0x15 0x05

/-- R144: with `count` accepted samples `RDTEMPS` answers `OK` and all `count` words in index order, from the reads at
0x80, 0x82, .. The next event is not a reset, which would come before the command finishes. -/
def Obligations.RdtempsReadsFrame : Prop :=
  ∀ (s : State) (count : Byte) (words : List Word) (rest : List Input), Idle s → s.phase = .configured →
    1 ≤ count.toNat → count.toNat ≤ 64 → words.length = count.toNat → (∀ w ∈ words, accepted w = true) →
    s.inputs = words.map okReply ++ rest → rest.head? ≠ some .reset →
    ∃ t, exec (.rdtemps count) s = .next t ∧ AfterScan s t count words words.length rest ∧
      t.responses = s.responses ++ [{ status := .ok, data := words.map pixWord }] ∧
      t.delivered = s.delivered ++ pixelReads s.devAddr words.length ∧ t.draws = s.draws ∧
      words.getLast? = some t.raw ∧ t.mag = toMag (pixMag t.raw)

/-- R142: at the first sample outside the window the scan stops: no later read, the offending value is not stored, and the
response is `RANGE` with exactly the words of the pixels before it. -/
def Obligations.RdtempsAbortsOnRange : Prop :=
  ∀ (s : State) (count : Byte) (good : List Word) (bad : Word) (rest : List Input), Idle s → s.phase = .configured →
    count.toNat ≤ 64 → good.length < count.toNat → (∀ w ∈ good, accepted w = true) → accepted bad = false →
    s.inputs = good.map okReply ++ okReply bad :: rest →
    ∃ t, exec (.rdtemps count) s = .next t ∧ AfterScan s t count good (good.length + 1) rest ∧
      t.responses = s.responses ++ [{ status := .range, data := good.map pixWord }] ∧
      t.delivered = s.delivered ++ pixelReads s.devAddr (good.length + 1) ∧ t.draws = s.draws ∧
      t.raw = bad ∧ t.mag = toMag (pixMag bad)

/-- R143: at the first read answered `Err` the scan stops: no later read, and the response is `TRANSPORT` with no data,
although the words before it are in `ACC`; the handle survives. -/
def Obligations.RdtempsAbortsOnErr : Prop :=
  ∀ (s : State) (count : Byte) (good : List Word) (w : Word) (rest : List Input), Idle s → s.phase = .configured →
    count.toNat ≤ 64 → good.length < count.toNat → (∀ x ∈ good, accepted x = true) →
    s.inputs = good.map okReply ++ errReply w :: rest →
    ∃ t, exec (.rdtemps count) s = .next t ∧ AfterScan s t count good (good.length + 1) rest ∧
      t.responses = s.responses ++ [{ status := .transport, data := [] }] ∧
      t.delivered = s.delivered ++ pixelReads s.devAddr (good.length +
        if Config.deliveryDraw s.draws then 1 else 0) ∧
      t.draws = s.draws + 1 ∧ t.raw = good.getLast?.getD s.raw ∧ t.mag = (good.getLast?.map (toMag ∘ pixMag)).getD s.mag

/-- R165, R145: a count outside 1..64 is answered `BADCOUNT` before any request, and nothing else changes. -/
def Obligations.BadCountTouchesNothing : Prop :=
  ∀ (s : State) (count : Byte), s.busy = false → s.phase = .configured → (count.toNat = 0 ∨ 64 < count.toNat) →
    exec (.rdtemps count) s = .next { s with responses := s.responses ++ [{ status := .badCount, data := [] }] }

/-- R148, R132: `RDTHERM` is one read at 0x0E; every sample is answered `OK` with its word, none is rejected; an `Err` is
answered `TRANSPORT` with no data. -/
def Obligations.RdthermReadsOnce : Prop :=
  ∀ (s : State) (w : Word) (rest : List Input), Idle s → s.phase = .configured →
    (s.inputs = okReply w :: rest →
      exec .rdtherm s = .next { s with
        op := 0x21, arg := 0x00, step := 1, raw := w, mag := toMag (thMag w), acc := s.acc.set 0 (thWord w)
        inputs := rest
        trace := s.trace ++ [readWord s.devAddr 0x0E]
        delivered := s.delivered ++ [readWord s.devAddr 0x0E]
        responses := s.responses ++ [{ status := .ok, data := [thWord w] }] }) ∧
    (s.inputs = errReply w :: rest →
      exec .rdtherm s = .next { s with
        op := 0x21, arg := 0x00, step := 0, inputs := rest
        trace := s.trace ++ [readWord s.devAddr 0x0E]
        delivered := if Config.deliveryDraw s.draws then s.delivered ++ [readWord s.devAddr 0x0E] else s.delivered
        draws := s.draws + 1
        responses := s.responses ++ [{ status := .transport, data := [] }] })

/-- R164: with no handle every command but `INIT` is answered `NOTCONF`; nothing else changes, whatever its operand. -/
def Obligations.NoHandleTouchesNothing : Prop :=
  ∀ (i : Instr) (s : State), isInit i = false → s.busy = false → s.phase = .uninit →
    exec i s = .next { s with responses := s.responses ++ [{ status := .notConf, data := [] }] }

/-- The order of the acceptance checks (first part of R168), at the command port: an illegal word first, then a missing
handle, then a bad count; in each case the word is noted, and no register changes. -/
def Obligations.AcceptanceOrder : Prop :=
  ∀ (s : State) (w : Word) (rest : List Input), s.busy = false → s.inputs = .command w :: rest →
    (wordWellFormed w = false →
      step s = .next { s with
        inputs := rest, commands := s.commands ++ [w]
        responses := s.responses ++ [{ status := .illegal, data := [] }] }) ∧
    (wordWellFormed w = true → opField w ≠ 0x01 → s.phase = .uninit →
      step s = .next { s with
        inputs := rest, commands := s.commands ++ [w]
        responses := s.responses ++ [{ status := .notConf, data := [] }] }) ∧
    (opField w = 0x20 → s.phase = .configured → ((argField w).toNat = 0 ∨ 64 < (argField w).toNat) →
      step s = .next { s with
        inputs := rest, commands := s.commands ++ [w]
        responses := s.responses ++ [{ status := .badCount, data := [] }] })

/-! ### Frames: what a command leaves unchanged, whatever the events -/

/-- `INIT` puts on the bus only the first writes of its table, in order (R55), and leaves `ACC`, `RAW`, `MAG` alone (R101:
"`INIT` issues only writes"); `DEV_ADDR` keeps the new address on every path (R104). -/
def Obligations.InitFrame : Prop :=
  ∀ (addr : DevAddr) (s t : State), s.pending = none → exec (.init addr) s = .next t →
    (∃ k, k ≤ 4 ∧ t.trace = s.trace ++ (initWrites addr).take k) ∧
    t.devAddr = addr ∧ t.op = 0x01 ∧ t.arg = addrArg addr ∧ t.acc = s.acc ∧ t.raw = s.raw ∧ t.mag = s.mag ∧
    t.inputs <:+ s.inputs

/-- A configuration command puts on the bus at most the one write of its operand to its own register, and changes no other
register than `OP`, `ARG` and `STEP` (R116). -/
def Obligations.ConfigFrames : Prop :=
  ConfigFrame .setmode 0x00 ∧ ConfigFrame .trigrst 0x01 ∧ ConfigFrame .setrate 0x02 ∧ ConfigFrame .setint 0x03 ∧
  ConfigFrame .clrstat 0x05

/-- `RDTEMPS` puts on the bus only the first pixel reads, in index order, at most `count` of them (R55, R141, R152), stores
only at indices it has read, and changes no architectural state (R146). -/
def Obligations.RdtempsFrame : Prop :=
  ∀ (count : Byte) (s t : State), s.pending = none → exec (.rdtemps count) s = .next t →
    t.phase = s.phase ∧ t.devAddr = s.devAddr ∧ t.inputs <:+ s.inputs ∧
    ∃ k, k ≤ count.toNat ∧ k ≤ 64 ∧ t.trace = s.trace ++ pixelReads s.devAddr k ∧
      ∀ (i : Nat) (h : i < 64), k ≤ i → t.acc[i] = s.acc[i]

/-- `RDTHERM` puts on the bus at most the one read at 0x0E, stores only `ACC[0]`, and changes no architectural state (R148,
R151). -/
def Obligations.RdthermFrame : Prop :=
  ∀ s t : State, s.pending = none → exec .rdtherm s = .next t →
    t.phase = s.phase ∧ t.devAddr = s.devAddr ∧ t.inputs <:+ s.inputs ∧
    (t.trace = s.trace ∨ t.trace = s.trace ++ [readWord s.devAddr 0x0E]) ∧
    ∀ (i : Nat) (h : i < 64), 1 ≤ i → t.acc[i] = s.acc[i]

/-- Every pixel temperature returned to the host lies in the plausible window (R36 c), whatever the samples were, when the
scan ends in the step that took it from the port and when a later step ends it. -/
def Obligations.ReturnedPixelsInWindow : Prop :=
  (∀ (count : Byte) (s t : State), exec (.rdtemps count) s = .next t → t.busy = false →
    ScanResponse s t count.toNat) ∧
  (∀ s t : State, BlockInv s → s.busy = true → s.op = 0x20 → s.inputs.head? ≠ some .reset → step s = .next t →
    t.busy = false → ScanResponse s t s.arg.toNat)

/-! ### The machine -/

/-- When the word at the command port decodes to `i`, the step is `exec i` on the state with that word taken from the events
and noted among the commands; there is nothing else around it (R58, R70, R87). -/
def Obligations.StepRunsDecodedCommand : Prop :=
  ∀ (s : State) (w : Word) (i : Instr) (rest : List Input), s.inputs = .command w :: rest → decode w = .ok i →
    step s = exec i { s with inputs := rest, commands := s.commands ++ [w] }

/-- A word presented with `withFetchWord` is the next command, run from an idle block with the events as they were. -/
def Obligations.PresentedWordRuns : Prop :=
  ∀ (s : State) (n : Nat) (i : Instr), decodeTableWord 16 n = some i →
    step (s.withFetchWord 16 n) =
      exec i { s with busy := false, pending := none, commands := s.commands ++ [tableWord 16 n] }

/-- R196: a command word presented while the block is busy has no step, legal or not. -/
def Obligations.BusyTakesNoCommand : Prop :=
  ∀ (s : State) (w : Word) (rest : List Input), s.busy = true → s.inputs = .command w :: rest →
    step s = .refused .commandWhileBusy

/-- R179: with a request outstanding and no answer, no step changes the block, whatever time passes and whatever answers to
abandoned requests come; no command is accepted; reset is the way out. That the hang is a next state equal to the state is
the model's form (log 4), and that a command word is refused (log 5). -/
def Obligations.UnansweredRequestHangs : Prop :=
  ∀ s : State, BlockInv s → s.busy = true → s.pending.isSome = true →
    (s.inputs = [] → step s = .next s ∧ ∀ n, smallRun n s = .next s) ∧
    (∀ quiet : List Input, (∀ e ∈ quiet, isQuiet e = true) →
      step { s with inputs := quiet } = .next { s with inputs := [] }) ∧
    (∀ (quiet : List Input) (e : Input) (rest : List Input), (∀ e ∈ quiet, isQuiet e = true) → quiet ≠ [] →
      e = .reset ∨ isCommand e = true →
      step { s with inputs := quiet ++ e :: rest } = .next { s with inputs := e :: rest }) ∧
    (∀ w rest, step { s with inputs := .command w :: rest } = .refused .commandWhileBusy) ∧
    (∀ rest, ∃ t, step { s with inputs := .reset :: rest } = .next t ∧ t.busy = false ∧ t.pending = none ∧
      t.phase = .uninit)

/-- A command that issues a request, and gets no event, issues exactly its first request and waits for the answer with no
response emitted (R43, R105, R118, R147, R149 *Issue*): the request `STEP = 0` names, in the form the command's rule gives. -/
def Obligations.CommandIssuesAndWaits : Prop :=
  ∀ (i : Instr) (s : State), Idle s → s.inputs = [] →
    (isInit i = true ∨ s.phase = .configured) → (∀ count, i = .rdtemps count → countLegal count = true) →
    ∃ t r, exec i s = .next t ∧ t.busy = true ∧ t.pending = some r ∧ t.trace = s.trace ++ [r] ∧
      nextRequest t = some r ∧ r = firstRequest s.devAddr i ∧
      wordOf t.op t.arg = encode i ∧ t.step = 0 ∧ t.responses = s.responses ∧ t.delivered = s.delivered

/-- R190, R191: reset at any time leaves an idle block in `UNINIT` with no request outstanding, emits no response and no
request; an outstanding request is delivered or not, as the free value says; an answer to it that arrives later is
ignored, by an idle block and by one that waits for another answer, whatever event comes after it. -/
def Obligations.ResetEvent : Prop :=
  (∀ (s : State) (rest : List Input), s.inputs = .reset :: rest →
    ∃ t, step s = .next t ∧ t.phase = .uninit ∧ t.busy = false ∧ t.pending = none ∧ t.inputs = rest ∧
      t.trace = s.trace ∧ t.responses = s.responses ∧
      (s.pending = none → t.delivered = s.delivered) ∧
      (∀ r, s.pending = some r →
        t.delivered = if Config.deliveryDraw s.draws then s.delivered ++ [r] else s.delivered)) ∧
  (∀ (s : State) (a : Reply) (rest : List Input), s.busy = false → s.inputs = .staleReply a :: rest →
    step s = .next { s with inputs := rest }) ∧
  (∀ (s : State) (a : Reply) (rest : List Input), BlockInv s → s.busy = true → s.pending.isSome = true →
    s.inputs = .staleReply a :: rest →
    smallStep s = .next { s with inputs := rest } ∧
    (rest.head? = some .reset ∨ (∃ w, rest.head? = some (.command w)) → step s = .next { s with inputs := rest }) ∧
    (rest.head? ≠ some .reset → (∀ w, rest.head? ≠ some (.command w)) → step s = step { s with inputs := rest }))

/-- The state after reset, where the spec gives it: `UNINIT`, idle, no request outstanding (R35). The other registers hold
the model's choice (log 1), of which this says nothing. -/
def Obligations.ResetState : Prop :=
  State.reset.phase = .uninit ∧ State.reset.busy = false ∧ State.reset.pending = none

/-- The invariant holds after reset. -/
def Obligations.InvAtReset : Prop := BlockInv State.reset

/-- Every step keeps the invariant (R36, R54, R62). -/
def Obligations.StepKeepsInv : Prop := ∀ s t : State, BlockInv s → step s = .next t → BlockInv t

/-- Every small step keeps the invariant (R36: "In every reachable state", those between two transactions included). -/
def Obligations.SmallStepKeepsInv : Prop := ∀ s t : State, BlockInv s → smallStep s = .next t → BlockInv t

/-- The block never faults (R166: errors are values): from a state that meets the invariant a step answers a next state, or
meets one of the two situations the spec excludes. -/
def Obligations.StepNeverFaults : Prop :=
  ∀ s : State, BlockInv s →
    (∃ t, step s = .next t) ∨
    (step s = .refused .commandWhileBusy ∧ s.busy = true ∧ ∃ w rest, s.inputs = .command w :: rest) ∨
    (step s = .refused .unsolicitedReply ∧ s.busy = false ∧ ∃ r rest, s.inputs = .reply r :: rest)

/-- R10: the big-step form and the small-step form agree: whatever a step does, a run of small steps does. -/
def Obligations.StepIsSmallSteps : Prop := ∀ s t : State, step s = .next t → ∃ n, smallRun n s = .next t

/-- An answer may be delayed (R206): a command that ran out of answers and is then given the rest ends as if it had had them
all at once. -/
def Obligations.LateAnswersMakeNoDifference : Prop :=
  ∀ (i : Instr) (s t : State) (pre : List Reply) (a : Reply) (post : List Input), Idle s →
    s.inputs = pre.map .reply → exec i s = .next t → t.busy = true →
    step { t with inputs := .reply a :: post } = exec i { s with inputs := pre.map .reply ++ .reply a :: post }

/-- If the transport answers every request, every command ends (R180, R203): 64 answers are always enough; and with no
command word to come, and every command before it answered, the run has ended (R204). -/
def Obligations.AnsweredCommandsEnd : Prop :=
  ∀ (i : Instr) (s : State) (answers : List Reply), Idle s → s.inputs = answers.map .reply → 64 ≤ answers.length →
    ∃ t, exec i s = .next t ∧ t.busy = false ∧ t.pending = none ∧ t.responses.length = s.responses.length + 1 ∧
      (s.commands.length = s.responses.length + 1 → runEnded t = true)

/-- R37: only `INIT` and reset change `PHASE` or `DEV_ADDR`. -/
def Obligations.OnlyInitAndResetChangeHandle : Prop :=
  ∀ s t : State, initOrReset s = false → step s = .next t → t.phase = s.phase ∧ t.devAddr = s.devAddr

/-- The commands, the bus trace, the responses and the delivered requests only grow: nothing is dropped, merged, reordered or undone
(R51, R54, R169). -/
def Obligations.LogsOnlyGrow : Prop :=
  ∀ s t : State, step s = .next t →
    s.commands <+: t.commands ∧ s.trace <+: t.trace ∧ s.responses <+: t.responses ∧ s.delivered <+: t.delivered ∧ s.draws ≤ t.draws ∧
    t.inputs <:+ s.inputs

/-- R62: whatever the host, the transport and the reset line do, the registers the block puts on the bus are among these,
and each of these can be put there. The register of pixel index `i`, in which the statements on `RDTEMPS` are said, is
`0x80 + 2*i` with no wrap (R46). -/
def Obligations.BusRegistersExactly : Prop :=
  (∀ i, i < 64 → (pixelReg i).toNat = 0x80 + 2 * i) ∧
  (∀ (ins : List Input) (n : Nat) (t : State),
    Host.Core.run core n { State.reset with inputs := ins } = .next t → ∀ r ∈ t.trace, r.reg ∈ busRegisters) ∧
  (∀ reg ∈ busRegisters, ∃ (ins : List Input) (n : Nat) (t : State),
    Host.Core.run core n { State.reset with inputs := ins } = .next t ∧ ∃ r ∈ t.trace, r.reg = reg)

/-- Registers no rule reads before it writes them cannot be seen from outside: two states that differ only in those take
steps that look the same and differ only in those again (R20, R22, R35: "harmless by construction"). So no output depends on
the reset values of log 1. -/
def Obligations.DeadRegistersAreInvisible : Prop :=
  ∀ s t : State, SameOutside s t → sameOutcome (step s) (step t)

/-- The end of a run (R204): idle, no command to come, none without its response. A run that waits has not ended while its
request is outstanding; the answer may end it. A run in which a reset abandoned a command has not ended either, and no later
step makes it end, because no step takes an abandoned command back. That an abandoned command keeps a run from ending is read
from R204: log 21. -/
def Obligations.UnansweredRunHasNotEnded : Prop :=
  (∀ s : State, BlockInv s →
    (runEnded s = true ↔ s.busy = false ∧ abandoned s = 0 ∧ ∀ w, .command w ∉ s.inputs) ∧
    (s.pending.isSome = true → runEnded s = false)) ∧
  (∀ s t : State, BlockInv s → step s = .next t →
    abandoned t = abandoned s + if s.busy = true ∧ s.inputs.head? = some .reset then 1 else 0)
end

