-- ==== Sys2Proof/Laws/Convert.lean ====
section
/-! SUPPORT. The converter in plain arithmetic: masks as remainders, and magnitudes through their registers. -/

namespace Sys2Proof.Machine

/-- The eleven low bits are the remainder by 2048. -/
theorem and_signMask (raw : Word) : (raw &&& signMask).toNat = raw.toNat % 2048 := by
  have h : signMask.toNat = 2 ^ 11 - 1 := rfl
  rw [BitVec.toNat_and, h, Nat.and_two_pow_sub_one_eq_mod]

/-- The sign test as a bound. -/
theorem low11_eq (raw : Word) : low11 raw = decide (raw.toNat < 2048) := by
  have h : (raw &&& signMask = raw) ↔ raw.toNat % 2048 = raw.toNat := by
    rw [← BitVec.toNat_inj, and_signMask]
  have h2 : raw.toNat % 2048 = raw.toNat ↔ raw.toNat < 2048 := by omega
  simp only [low11, beq_eq_decide, h, h2]

theorem pixMag_eq (raw : Word) :
    pixMag raw = if raw.toNat < 2048 then (raw.toNat : Int) else (raw.toNat : Int) - 4096 := by
  simp [pixMag, low11_eq]

theorem thMag_eq (raw : Word) :
    thMag raw = if raw.toNat < 2048 then (raw.toNat : Int) else -((raw.toNat % 2048 : Nat) : Int) := by
  rw [thMag, and_signMask]
  simp [low11_eq]

/-- A magnitude of 17 bits signed survives the register `MAG`. -/
theorem toMag_toInt {m : Int} (h1 : -65536 ≤ m) (h2 : m < 65536) : (toMag m).toInt = m := by
  simp only [toMag, BitVec.toInt_ofInt]
  exact Int.bmod_eq_of_le (by omega) (by omega)

/-- A magnitude of 16 bits signed survives the output word. -/
theorem outWord_toInt {m : Int} (h1 : -32768 ≤ m) (h2 : m < 32768) : (outWord m).toInt = m := by
  simp only [outWord, BitVec.toInt_ofInt]
  exact Int.bmod_eq_of_le (by omega) (by omega)

theorem violates_eq_true {m : Int} : violates m = true ↔ m < -80 ∨ 400 < m := by
  rw [violates, Bool.or_eq_true, decide_eq_true_eq, decide_eq_true_eq]
  rfl

theorem violates_eq_false {m : Int} : violates m = false ↔ -80 ≤ m ∧ m ≤ 400 := by
  rw [← Bool.not_eq_true, violates_eq_true]
  omega

end Sys2Proof.Machine
end

