-- ==== Sys2Proof/Laws/State.lean ====
section
/-! SUPPORT. One lemma per field for each update of State, so that no proof unfolds a record update. -/

namespace Sys2Proof.Machine
section Send
variable (r : Request) (s : State)
@[simp] theorem send_phase : (send r s).phase = s.phase := rfl
@[simp] theorem send_devAddr : (send r s).devAddr = s.devAddr := rfl
@[simp] theorem send_busy : (send r s).busy = s.busy := rfl
@[simp] theorem send_op : (send r s).op = s.op := rfl
@[simp] theorem send_arg : (send r s).arg = s.arg := rfl
@[simp] theorem send_step : (send r s).step = s.step := rfl
@[simp] theorem send_acc : (send r s).acc = s.acc := rfl
@[simp] theorem send_raw : (send r s).raw = s.raw := rfl
@[simp] theorem send_mag : (send r s).mag = s.mag := rfl
@[simp] theorem send_pending : (send r s).pending = some r := rfl
@[simp] theorem send_inputs : (send r s).inputs = s.inputs := rfl
@[simp] theorem send_commands : (send r s).commands = s.commands := rfl
@[simp] theorem send_trace : (send r s).trace = s.trace ++ [r] := rfl
@[simp] theorem send_delivered : (send r s).delivered = s.delivered := rfl
@[simp] theorem send_responses : (send r s).responses = s.responses := rfl
@[simp] theorem send_draws : (send r s).draws = s.draws := rfl

end Send
section Respond
variable (st : Status) (data : List Word) (s : State)
@[simp] theorem respond_phase : (respond st data s).phase = s.phase := rfl
@[simp] theorem respond_devAddr : (respond st data s).devAddr = s.devAddr := rfl
@[simp] theorem respond_busy : (respond st data s).busy = false := rfl
@[simp] theorem respond_op : (respond st data s).op = s.op := rfl
@[simp] theorem respond_arg : (respond st data s).arg = s.arg := rfl
@[simp] theorem respond_step : (respond st data s).step = s.step := rfl
@[simp] theorem respond_acc : (respond st data s).acc = s.acc := rfl
@[simp] theorem respond_raw : (respond st data s).raw = s.raw := rfl
@[simp] theorem respond_mag : (respond st data s).mag = s.mag := rfl
@[simp] theorem respond_pending : (respond st data s).pending = s.pending := rfl
@[simp] theorem respond_inputs : (respond st data s).inputs = s.inputs := rfl
@[simp] theorem respond_commands : (respond st data s).commands = s.commands := rfl
@[simp] theorem respond_trace : (respond st data s).trace = s.trace := rfl
@[simp] theorem respond_delivered : (respond st data s).delivered = s.delivered := rfl
@[simp] theorem respond_responses : (respond st data s).responses = s.responses ++ [{ status := st, data := data }] := rfl
@[simp] theorem respond_draws : (respond st data s).draws = s.draws := rfl

end Respond
section Latch
variable (op arg : Byte) (s : State)
@[simp] theorem latch_phase : (latch op arg s).phase = s.phase := rfl
@[simp] theorem latch_devAddr : (latch op arg s).devAddr = s.devAddr := rfl
@[simp] theorem latch_busy : (latch op arg s).busy = true := rfl
@[simp] theorem latch_op : (latch op arg s).op = op := rfl
@[simp] theorem latch_arg : (latch op arg s).arg = arg := rfl
@[simp] theorem latch_step : (latch op arg s).step = 0 := rfl
@[simp] theorem latch_acc : (latch op arg s).acc = s.acc := rfl
@[simp] theorem latch_raw : (latch op arg s).raw = s.raw := rfl
@[simp] theorem latch_mag : (latch op arg s).mag = s.mag := rfl
@[simp] theorem latch_pending : (latch op arg s).pending = s.pending := rfl
@[simp] theorem latch_inputs : (latch op arg s).inputs = s.inputs := rfl
@[simp] theorem latch_commands : (latch op arg s).commands = s.commands := rfl
@[simp] theorem latch_trace : (latch op arg s).trace = s.trace := rfl
@[simp] theorem latch_delivered : (latch op arg s).delivered = s.delivered := rfl
@[simp] theorem latch_responses : (latch op arg s).responses = s.responses := rfl
@[simp] theorem latch_draws : (latch op arg s).draws = s.draws := rfl

end Latch
section DrawDelivery
variable (r : Request) (s : State)
@[simp] theorem drawDelivery_phase : (drawDelivery r s).phase = s.phase := rfl
@[simp] theorem drawDelivery_devAddr : (drawDelivery r s).devAddr = s.devAddr := rfl
@[simp] theorem drawDelivery_busy : (drawDelivery r s).busy = s.busy := rfl
@[simp] theorem drawDelivery_op : (drawDelivery r s).op = s.op := rfl
@[simp] theorem drawDelivery_arg : (drawDelivery r s).arg = s.arg := rfl
@[simp] theorem drawDelivery_step : (drawDelivery r s).step = s.step := rfl
@[simp] theorem drawDelivery_acc : (drawDelivery r s).acc = s.acc := rfl
@[simp] theorem drawDelivery_raw : (drawDelivery r s).raw = s.raw := rfl
@[simp] theorem drawDelivery_mag : (drawDelivery r s).mag = s.mag := rfl
@[simp] theorem drawDelivery_pending : (drawDelivery r s).pending = s.pending := rfl
@[simp] theorem drawDelivery_inputs : (drawDelivery r s).inputs = s.inputs := rfl
@[simp] theorem drawDelivery_commands : (drawDelivery r s).commands = s.commands := rfl
@[simp] theorem drawDelivery_trace : (drawDelivery r s).trace = s.trace := rfl
@[simp] theorem drawDelivery_delivered : (drawDelivery r s).delivered = if Config.deliveryDraw s.draws then s.delivered ++ [r] else s.delivered := rfl
@[simp] theorem drawDelivery_responses : (drawDelivery r s).responses = s.responses := rfl
@[simp] theorem drawDelivery_draws : (drawDelivery r s).draws = s.draws + 1 := rfl

end DrawDelivery
section WriteAcc
variable (i : Nat) (w : Word) (s : State)
@[simp] theorem writeAcc_phase : (writeAcc i w s).phase = s.phase := rfl
@[simp] theorem writeAcc_devAddr : (writeAcc i w s).devAddr = s.devAddr := rfl
@[simp] theorem writeAcc_busy : (writeAcc i w s).busy = s.busy := rfl
@[simp] theorem writeAcc_op : (writeAcc i w s).op = s.op := rfl
@[simp] theorem writeAcc_arg : (writeAcc i w s).arg = s.arg := rfl
@[simp] theorem writeAcc_step : (writeAcc i w s).step = s.step := rfl
@[simp] theorem writeAcc_acc : (writeAcc i w s).acc = s.acc.setIfInBounds i w := rfl
@[simp] theorem writeAcc_raw : (writeAcc i w s).raw = s.raw := rfl
@[simp] theorem writeAcc_mag : (writeAcc i w s).mag = s.mag := rfl
@[simp] theorem writeAcc_pending : (writeAcc i w s).pending = s.pending := rfl
@[simp] theorem writeAcc_inputs : (writeAcc i w s).inputs = s.inputs := rfl
@[simp] theorem writeAcc_commands : (writeAcc i w s).commands = s.commands := rfl
@[simp] theorem writeAcc_trace : (writeAcc i w s).trace = s.trace := rfl
@[simp] theorem writeAcc_delivered : (writeAcc i w s).delivered = s.delivered := rfl
@[simp] theorem writeAcc_responses : (writeAcc i w s).responses = s.responses := rfl
@[simp] theorem writeAcc_draws : (writeAcc i w s).draws = s.draws := rfl

end WriteAcc
section ResetRegisters
variable (s : State)
@[simp] theorem resetRegisters_phase : (resetRegisters s).phase = .uninit := rfl
@[simp] theorem resetRegisters_devAddr : (resetRegisters s).devAddr = 0 := rfl
@[simp] theorem resetRegisters_busy : (resetRegisters s).busy = false := rfl
@[simp] theorem resetRegisters_op : (resetRegisters s).op = 0 := rfl
@[simp] theorem resetRegisters_arg : (resetRegisters s).arg = 0 := rfl
@[simp] theorem resetRegisters_step : (resetRegisters s).step = 0 := rfl
@[simp] theorem resetRegisters_acc : (resetRegisters s).acc = Vector.replicate 64 0 := rfl
@[simp] theorem resetRegisters_raw : (resetRegisters s).raw = 0 := rfl
@[simp] theorem resetRegisters_mag : (resetRegisters s).mag = 0 := rfl
@[simp] theorem resetRegisters_pending : (resetRegisters s).pending = none := rfl
@[simp] theorem resetRegisters_inputs : (resetRegisters s).inputs = s.inputs := rfl
@[simp] theorem resetRegisters_commands : (resetRegisters s).commands = s.commands := rfl
@[simp] theorem resetRegisters_trace : (resetRegisters s).trace = s.trace := rfl
@[simp] theorem resetRegisters_delivered : (resetRegisters s).delivered = s.delivered := rfl
@[simp] theorem resetRegisters_responses : (resetRegisters s).responses = s.responses := rfl
@[simp] theorem resetRegisters_draws : (resetRegisters s).draws = s.draws := rfl

end ResetRegisters
section LoadPixel
variable (w : Word) (s : State)
@[simp] theorem loadPixel_phase : (loadPixel w s).phase = s.phase := rfl
@[simp] theorem loadPixel_devAddr : (loadPixel w s).devAddr = s.devAddr := rfl
@[simp] theorem loadPixel_busy : (loadPixel w s).busy = s.busy := rfl
@[simp] theorem loadPixel_op : (loadPixel w s).op = s.op := rfl
@[simp] theorem loadPixel_arg : (loadPixel w s).arg = s.arg := rfl
@[simp] theorem loadPixel_step : (loadPixel w s).step = s.step := rfl
@[simp] theorem loadPixel_acc : (loadPixel w s).acc = s.acc := rfl
@[simp] theorem loadPixel_raw : (loadPixel w s).raw = w := rfl
@[simp] theorem loadPixel_mag : (loadPixel w s).mag = toMag (pixMag w) := rfl
@[simp] theorem loadPixel_pending : (loadPixel w s).pending = s.pending := rfl
@[simp] theorem loadPixel_inputs : (loadPixel w s).inputs = s.inputs := rfl
@[simp] theorem loadPixel_commands : (loadPixel w s).commands = s.commands := rfl
@[simp] theorem loadPixel_trace : (loadPixel w s).trace = s.trace := rfl
@[simp] theorem loadPixel_delivered : (loadPixel w s).delivered = s.delivered := rfl
@[simp] theorem loadPixel_responses : (loadPixel w s).responses = s.responses := rfl
@[simp] theorem loadPixel_draws : (loadPixel w s).draws = s.draws := rfl

end LoadPixel
section LoadTherm
variable (w : Word) (s : State)
@[simp] theorem loadTherm_phase : (loadTherm w s).phase = s.phase := rfl
@[simp] theorem loadTherm_devAddr : (loadTherm w s).devAddr = s.devAddr := rfl
@[simp] theorem loadTherm_busy : (loadTherm w s).busy = s.busy := rfl
@[simp] theorem loadTherm_op : (loadTherm w s).op = s.op := rfl
@[simp] theorem loadTherm_arg : (loadTherm w s).arg = s.arg := rfl
@[simp] theorem loadTherm_step : (loadTherm w s).step = s.step := rfl
@[simp] theorem loadTherm_acc : (loadTherm w s).acc = s.acc := rfl
@[simp] theorem loadTherm_raw : (loadTherm w s).raw = w := rfl
@[simp] theorem loadTherm_mag : (loadTherm w s).mag = toMag (thMag w) := rfl
@[simp] theorem loadTherm_pending : (loadTherm w s).pending = s.pending := rfl
@[simp] theorem loadTherm_inputs : (loadTherm w s).inputs = s.inputs := rfl
@[simp] theorem loadTherm_commands : (loadTherm w s).commands = s.commands := rfl
@[simp] theorem loadTherm_trace : (loadTherm w s).trace = s.trace := rfl
@[simp] theorem loadTherm_delivered : (loadTherm w s).delivered = s.delivered := rfl
@[simp] theorem loadTherm_responses : (loadTherm w s).responses = s.responses := rfl
@[simp] theorem loadTherm_draws : (loadTherm w s).draws = s.draws := rfl

end LoadTherm
section AcceptInit
variable (addr : DevAddr) (s : State)
@[simp] theorem acceptInit_phase : (acceptInit addr s).phase = .uninit := rfl
@[simp] theorem acceptInit_devAddr : (acceptInit addr s).devAddr = addr := rfl
@[simp] theorem acceptInit_busy : (acceptInit addr s).busy = true := rfl
@[simp] theorem acceptInit_op : (acceptInit addr s).op = 0x01 := rfl
@[simp] theorem acceptInit_arg : (acceptInit addr s).arg = addrArg addr := rfl
@[simp] theorem acceptInit_step : (acceptInit addr s).step = 0 := rfl
@[simp] theorem acceptInit_acc : (acceptInit addr s).acc = s.acc := rfl
@[simp] theorem acceptInit_raw : (acceptInit addr s).raw = s.raw := rfl
@[simp] theorem acceptInit_mag : (acceptInit addr s).mag = s.mag := rfl
@[simp] theorem acceptInit_pending : (acceptInit addr s).pending = s.pending := rfl
@[simp] theorem acceptInit_inputs : (acceptInit addr s).inputs = s.inputs := rfl
@[simp] theorem acceptInit_commands : (acceptInit addr s).commands = s.commands := rfl
@[simp] theorem acceptInit_trace : (acceptInit addr s).trace = s.trace := rfl
@[simp] theorem acceptInit_delivered : (acceptInit addr s).delivered = s.delivered := rfl
@[simp] theorem acceptInit_responses : (acceptInit addr s).responses = s.responses := rfl
@[simp] theorem acceptInit_draws : (acceptInit addr s).draws = s.draws := rfl

end AcceptInit
section PresentCommand
variable (w : Word) (s : State)
@[simp] theorem presentCommand_phase : (presentCommand w s).phase = s.phase := rfl
@[simp] theorem presentCommand_devAddr : (presentCommand w s).devAddr = s.devAddr := rfl
@[simp] theorem presentCommand_busy : (presentCommand w s).busy = false := rfl
@[simp] theorem presentCommand_op : (presentCommand w s).op = s.op := rfl
@[simp] theorem presentCommand_arg : (presentCommand w s).arg = s.arg := rfl
@[simp] theorem presentCommand_step : (presentCommand w s).step = s.step := rfl
@[simp] theorem presentCommand_acc : (presentCommand w s).acc = s.acc := rfl
@[simp] theorem presentCommand_raw : (presentCommand w s).raw = s.raw := rfl
@[simp] theorem presentCommand_mag : (presentCommand w s).mag = s.mag := rfl
@[simp] theorem presentCommand_pending : (presentCommand w s).pending = none := rfl
@[simp] theorem presentCommand_inputs : (presentCommand w s).inputs = .command w :: s.inputs := rfl
@[simp] theorem presentCommand_commands : (presentCommand w s).commands = s.commands := rfl
@[simp] theorem presentCommand_trace : (presentCommand w s).trace = s.trace := rfl
@[simp] theorem presentCommand_delivered : (presentCommand w s).delivered = s.delivered := rfl
@[simp] theorem presentCommand_responses : (presentCommand w s).responses = s.responses := rfl
@[simp] theorem presentCommand_draws : (presentCommand w s).draws = s.draws := rfl

end PresentCommand
section SetInputs
variable (ins : List Input) (s : State)
@[simp] theorem setInputs_phase : (setInputs ins s).phase = s.phase := rfl
@[simp] theorem setInputs_devAddr : (setInputs ins s).devAddr = s.devAddr := rfl
@[simp] theorem setInputs_busy : (setInputs ins s).busy = s.busy := rfl
@[simp] theorem setInputs_op : (setInputs ins s).op = s.op := rfl
@[simp] theorem setInputs_arg : (setInputs ins s).arg = s.arg := rfl
@[simp] theorem setInputs_step : (setInputs ins s).step = s.step := rfl
@[simp] theorem setInputs_acc : (setInputs ins s).acc = s.acc := rfl
@[simp] theorem setInputs_raw : (setInputs ins s).raw = s.raw := rfl
@[simp] theorem setInputs_mag : (setInputs ins s).mag = s.mag := rfl
@[simp] theorem setInputs_pending : (setInputs ins s).pending = s.pending := rfl
@[simp] theorem setInputs_inputs : (setInputs ins s).inputs = ins := rfl
@[simp] theorem setInputs_commands : (setInputs ins s).commands = s.commands := rfl
@[simp] theorem setInputs_trace : (setInputs ins s).trace = s.trace := rfl
@[simp] theorem setInputs_delivered : (setInputs ins s).delivered = s.delivered := rfl
@[simp] theorem setInputs_responses : (setInputs ins s).responses = s.responses := rfl
@[simp] theorem setInputs_draws : (setInputs ins s).draws = s.draws := rfl
@[simp] theorem setInputs_setInputs (ins' : List Input) : setInputs ins (setInputs ins' s) = setInputs ins s := rfl
@[simp] theorem setInputs_self : setInputs s.inputs s = s := rfl

end SetInputs
section RecordCommand
variable (w : Word) (s : State)
@[simp] theorem recordCommand_phase : (recordCommand w s).phase = s.phase := rfl
@[simp] theorem recordCommand_devAddr : (recordCommand w s).devAddr = s.devAddr := rfl
@[simp] theorem recordCommand_busy : (recordCommand w s).busy = s.busy := rfl
@[simp] theorem recordCommand_op : (recordCommand w s).op = s.op := rfl
@[simp] theorem recordCommand_arg : (recordCommand w s).arg = s.arg := rfl
@[simp] theorem recordCommand_step : (recordCommand w s).step = s.step := rfl
@[simp] theorem recordCommand_acc : (recordCommand w s).acc = s.acc := rfl
@[simp] theorem recordCommand_raw : (recordCommand w s).raw = s.raw := rfl
@[simp] theorem recordCommand_mag : (recordCommand w s).mag = s.mag := rfl
@[simp] theorem recordCommand_pending : (recordCommand w s).pending = s.pending := rfl
@[simp] theorem recordCommand_inputs : (recordCommand w s).inputs = s.inputs := rfl
@[simp] theorem recordCommand_trace : (recordCommand w s).trace = s.trace := rfl
@[simp] theorem recordCommand_delivered : (recordCommand w s).delivered = s.delivered := rfl
@[simp] theorem recordCommand_responses : (recordCommand w s).responses = s.responses := rfl
@[simp] theorem recordCommand_draws : (recordCommand w s).draws = s.draws := rfl
@[simp] theorem recordCommand_commands : (recordCommand w s).commands = s.commands ++ [w] := rfl

end RecordCommand
section CloseRequest
variable (r : Request) (ans : Reply) (s : State)
@[simp] theorem closeRequest_phase : (closeRequest r ans s).phase = s.phase := by
  unfold closeRequest; split <;> rfl
@[simp] theorem closeRequest_devAddr : (closeRequest r ans s).devAddr = s.devAddr := by
  unfold closeRequest; split <;> rfl
@[simp] theorem closeRequest_busy : (closeRequest r ans s).busy = s.busy := by
  unfold closeRequest; split <;> rfl
@[simp] theorem closeRequest_op : (closeRequest r ans s).op = s.op := by
  unfold closeRequest; split <;> rfl
@[simp] theorem closeRequest_arg : (closeRequest r ans s).arg = s.arg := by
  unfold closeRequest; split <;> rfl
@[simp] theorem closeRequest_step : (closeRequest r ans s).step = s.step := by
  unfold closeRequest; split <;> rfl
@[simp] theorem closeRequest_acc : (closeRequest r ans s).acc = s.acc := by
  unfold closeRequest; split <;> rfl
@[simp] theorem closeRequest_raw : (closeRequest r ans s).raw = s.raw := by
  unfold closeRequest; split <;> rfl
@[simp] theorem closeRequest_mag : (closeRequest r ans s).mag = s.mag := by
  unfold closeRequest; split <;> rfl
@[simp] theorem closeRequest_pending : (closeRequest r ans s).pending = none := by
  unfold closeRequest; split <;> rfl
@[simp] theorem closeRequest_inputs : (closeRequest r ans s).inputs = s.inputs := by
  unfold closeRequest; split <;> rfl
@[simp] theorem closeRequest_commands : (closeRequest r ans s).commands = s.commands := by
  unfold closeRequest; split <;> rfl
@[simp] theorem closeRequest_trace : (closeRequest r ans s).trace = s.trace := by
  unfold closeRequest; split <;> rfl
@[simp] theorem closeRequest_responses : (closeRequest r ans s).responses = s.responses := by
  unfold closeRequest; split <;> rfl
@[simp] theorem closeRequest_delivered_ok (h : ans.err = false) :
    (closeRequest r ans s).delivered = s.delivered ++ [r] := by
  simp [closeRequest, h]
@[simp] theorem closeRequest_draws_ok (h : ans.err = false) : (closeRequest r ans s).draws = s.draws := by
  simp [closeRequest, h]

end CloseRequest

end Sys2Proof.Machine
end

