-- ==== Sys2Proof/Laws/Ops.lean ====
section
/-! SUPPORT. What each shared operation can do, said once: settling, answering, driving a command, and the acceptance
checks. -/

namespace Sys2Proof.Machine

section Settle
variable {q : Sequence} {s : State}

theorem settle_idle (h : s.busy = false) : settle q s = s := by simp [settle, h]

theorem settle_waiting {r : Request} (h : s.pending = some r) : settle q s = s := by
  simp [settle, h]

theorem settle_issue {r : Request} (hb : s.busy = true) (hp : s.pending = none) (hr : q.request s = some r) :
    settle q s = send r s := by simp [settle, hb, hp, hr]

theorem settle_finish (hb : s.busy = true) (hp : s.pending = none) (hr : q.request s = none) (hd : q.done s = true) :
    settle q s = q.finish s := by simp [settle, hb, hp, hr, hd]

/-- Everything settling can do. -/
theorem settle_cases (q : Sequence) (s : State) :
    (settle q s = s ∧ (s.busy = false ∨ s.pending.isSome = true ∨
      (s.busy = true ∧ s.pending = none ∧ q.request s = none ∧ q.done s = false))) ∨
    (∃ r, s.busy = true ∧ s.pending = none ∧ q.request s = some r ∧ settle q s = send r s) ∨
    (s.busy = true ∧ s.pending = none ∧ q.request s = none ∧ q.done s = true ∧ settle q s = q.finish s) := by
  cases hb : s.busy with
  | false => exact .inl ⟨settle_idle hb, .inl rfl⟩
  | true =>
    cases hp : s.pending with
    | some r => exact .inl ⟨settle_waiting hp, .inr (.inl rfl)⟩
    | none =>
      cases hr : q.request s with
      | some r => exact .inr (.inl ⟨r, rfl, rfl, rfl, settle_issue hb hp hr⟩)
      | none =>
        cases hd : q.done s with
        | true => exact .inr (.inr ⟨rfl, rfl, rfl, rfl, settle_finish hb hp hr hd⟩)
        | false =>
          refine .inl ⟨?_, .inr (.inr ⟨rfl, rfl, rfl, rfl⟩)⟩
          simp [settle, hb, hp, hr, hd]

/-- Settling keeps whatever *Issue* and *Finish* keep. -/
theorem settle_keeps {q : Sequence} {P : State → Prop}
    (hi : ∀ s r, s.busy = true → s.pending = none → q.request s = some r → P s → P (send r s))
    (hf : ∀ s, s.busy = true → s.pending = none → q.done s = true → P s → P (q.finish s))
    (s : State) (h : P s) : P (settle q s) := by
  rcases settle_cases q s with ⟨e, _⟩ | ⟨r, hb, hp, hr, e⟩ | ⟨hb, hp, _, hd, e⟩
  · rwa [e]
  · rw [e]
    exact hi s r hb hp hr h
  · rw [e]
    exact hf s hb hp hd h

end Settle

section Answer
variable {q : Sequence} {ans : Reply} {s : State} {r : Request}

theorem answer_err (hp : s.pending = some r) (he : ans.err = true) :
    answer q ans s = respond .transport [] (closeRequest r ans s) := by simp [answer, hp, he]

theorem answer_ok (hp : s.pending = some r) (he : ans.err = false) :
    answer q ans s = q.answerOk ans.data (closeRequest r ans s) := by simp [answer, hp, he]

/-- An `Ok` answer closes the request, which took effect. -/
theorem closeRequest_ok (he : ans.err = false) :
    closeRequest r ans s = { s with pending := none, delivered := s.delivered ++ [r] } := by simp [closeRequest, he]

/-- An `Err` answer closes the request, whose delivery is a draw. -/
theorem closeRequest_err (he : ans.err = true) :
    closeRequest r ans s = drawDelivery r { s with pending := none } := by simp [closeRequest, he]

/-- Answering keeps whatever ending with `TRANSPORT` and the command's own *Answer Ok* keep. -/
theorem answer_keeps {q : Sequence} {P : State → Prop}
    (he : ∀ s r ans, s.busy = true → s.pending = some r → P s → P (respond .transport [] (closeRequest r ans s)))
    (ho : ∀ s r ans, s.busy = true → s.pending = some r → ans.err = false → P s →
      P (q.answerOk ans.data (closeRequest r ans s)))
    (ans : Reply) (s : State) (hb : s.busy = true) (h : P s) : P (answer q ans s) := by
  cases hp : s.pending with
  | none => simpa [answer, hp] using h
  | some r =>
    cases hx : ans.err with
    | true =>
      rw [answer_err hp hx]
      exact he s r ans hb hp h
    | false =>
      rw [answer_ok hp hx]
      exact ho s r ans hb hp hx h

end Answer

section Drive
variable (q : Sequence) (s : State) (rest : List Input)

theorem drive_nil : drive q [] s = settle q (setInputs [] s) := rfl

theorem drive_reset : drive q (.reset :: rest) s = (setInputs (.reset :: rest) s) := rfl

theorem drive_command (w : Word) : drive q (.command w :: rest) s = settle q (setInputs (.command w :: rest) s) := rfl

variable {q s rest}

/-- A command that has ended consumes no event. -/
theorem drive_idle (h : s.busy = false) (ins : List Input) : drive q ins s = (setInputs ins s) := by
  cases ins with
  | nil => rw [drive_nil, settle_idle (by simpa using h)]
  | cons i rest =>
    cases i with
    | reset => rfl
    | command w => rw [drive_command, settle_idle (by simpa using h)]
    | reply r => simp [drive, settle, h]
    | staleReply r => simp [drive, settle, h]
    | delay => simp [drive, settle, h]

/-- A waiting command takes the answer to its request. -/
theorem drive_reply_waiting (ans : Reply) {r : Request} (hb : s.busy = true) (hp : s.pending = some r) :
    drive q (.reply ans :: rest) s = drive q rest (answer q ans (setInputs (.reply ans :: rest) s)) := by
  simp [drive, settle, hb, hp]

/-- A command with a request to issue issues it and takes the answer to it. -/
theorem drive_reply_issue (ans : Reply) {r : Request} (hb : s.busy = true) (hp : s.pending = none)
    (hr : q.request (setInputs (.reply ans :: rest) s) = some r) :
    drive q (.reply ans :: rest) s = drive q rest (answer q ans (send r (setInputs (.reply ans :: rest) s))) := by
  simp [drive, settle, hb, hp, hr]

/-- A waiting command ignores an answer to another request. -/
theorem drive_stale_waiting (ans : Reply) {r : Request} (hb : s.busy = true) (hp : s.pending = some r) :
    drive q (.staleReply ans :: rest) s = drive q rest (setInputs (.staleReply ans :: rest) s) := by
  simp [drive, settle, hb, hp]

/-- A waiting command goes on waiting. -/
theorem drive_delay_waiting {r : Request} (hb : s.busy = true) (hp : s.pending = some r) :
    drive q (.delay :: rest) s = drive q rest (setInputs (.delay :: rest) s) := by
  simp [drive, settle, hb, hp]

/-- Driving a command keeps whatever settling, answering and moving on in the events keep. -/
theorem drive_keeps {P : State → Prop} (hi : ∀ s ins, P s → P (setInputs ins s))
    (hs : ∀ s, P s → P (settle q s)) (ha : ∀ ans s, s.busy = true → P s → P (answer q ans s)) :
    ∀ ins s, P s → P (drive q ins s) := by
  intro ins
  induction ins with
  | nil => intro s h; exact hs _ (hi _ _ h)
  | cons i rest ih =>
    intro s h
    have ht : P (settle q (setInputs (i :: rest) s)) := hs _ (hi _ _ h)
    cases i with
    | reset => exact hi _ _ h
    | command w => exact ht
    | reply ans =>
      simp only [drive]
      split
      · rename_i hw; exact ih _ (ha _ _ (by simp_all) ht)
      · exact ht
    | staleReply ans =>
      simp only [drive]
      split
      · exact ih _ ht
      · exact ht
    | delay =>
      simp only [drive]
      split
      · exact ih _ ht
      · exact ht

/-- Driving does not read the events of the state, only those it is given. -/
theorem drive_setInputs (q : Sequence) (ins ins' : List Input) (s : State) :
    drive q ins (setInputs ins' s) = drive q ins s := by
  cases ins with
  | nil => rfl
  | cons i rest => cases i <;> rfl

/-- The events left after a command are an end of those it was given. -/
theorem drive_inputs_suffix {q : Sequence} (hf : ∀ s, (q.finish s).inputs = s.inputs) :
    ∀ (ins : List Input) (s : State), (drive q ins s).inputs <:+ ins := by
  have hs : ∀ s, (settle q s).inputs = s.inputs := by
    intro s
    rcases settle_cases q s with ⟨e, _⟩ | ⟨r, _, _, _, e⟩ | ⟨_, _, _, _, e⟩ <;> rw [e]
    · rfl
    · exact hf s
  intro ins
  induction ins with
  | nil =>
    intro s
    rw [drive_nil, hs]
    exact List.suffix_refl _
  | cons i rest ih =>
    intro s
    cases i with
    | reset => exact List.suffix_refl _
    | command w =>
      rw [drive_command, hs]
      exact List.suffix_refl _
    | reply ans =>
      simp only [drive]
      split
      · exact (ih _).trans (List.suffix_cons _ _)
      · rw [hs]
        exact List.suffix_refl _
    | staleReply ans =>
      simp only [drive]
      split
      · exact (ih _).trans (List.suffix_cons _ _)
      · rw [hs]
        exact List.suffix_refl _
    | delay =>
      simp only [drive]
      split
      · exact (ih _).trans (List.suffix_cons _ _)
      · rw [hs]
        exact List.suffix_refl _

end Drive

section Acceptance
variable {s t u : State}

/-- Everything the idle check can do. -/
theorem whenIdle_eq_next : whenIdle s t = .next u ↔ s.busy = false ∧ t = u := by
  cases h : s.busy <;> simp [whenIdle, h]

theorem whenIdle_idle (h : s.busy = false) : whenIdle s t = .next t := by simp [whenIdle, h]

theorem whenIdle_busy (h : s.busy = true) : whenIdle s t = .refused .commandWhileBusy := by simp [whenIdle, h]

theorem whenConfigured_uninit (h : s.phase = .uninit) : whenConfigured s t = respond .notConf [] s := by
  simp [whenConfigured, h]

theorem whenConfigured_configured (h : s.phase = .configured) : whenConfigured s t = t := by
  simp [whenConfigured, h]

/-- A command answered at acceptance is over at once: nothing else happens. -/
theorem carryOut_idle (q : Sequence) (h : s.busy = false) : carryOut q s = s := by
  rw [carryOut, drive_idle h, setInputs_self]

/-- The sequence of each command. -/
def sequenceFor : Instr → Sequence
  | .init _ => initSequence
  | .setmode _ => configSequence
  | .trigrst _ => configSequence
  | .setrate _ => configSequence
  | .setint _ => configSequence
  | .clrstat _ => configSequence
  | .rdtemps _ => scanSequence
  | .rdtherm => thermSequence

/-- Every meaning is the idle check, then the command carried out from its accepted state by its own sequence. -/
theorem exec_eq (i : Instr) (s : State) :
    exec i s = whenIdle s (carryOut (sequenceFor i) (accept i s)) := by
  cases i <;> rfl

/-- Everything a meaning can do. -/
theorem exec_eq_next {i : Instr} {s t : State} :
    exec i s = .next t ↔ s.busy = false ∧ t = carryOut (sequenceFor i) (accept i s) := by
  rw [exec_eq, whenIdle_eq_next]
  exact ⟨fun h => ⟨h.1, h.2.symm⟩, fun h => ⟨h.1, h.2.symm⟩⟩

/-- A command that is in progress after acceptance is the one `OP` names. -/
theorem accept_sequence (i : Instr) (s : State) (_hi : s.busy = false)
    (hb : (accept i s).busy = true) :
    sequenceOf (accept i s).op = some (sequenceFor i) := by
  cases i with
  | init a => rfl
  | rdtherm => cases hp : s.phase <;> simp_all [accept, acceptRdtherm, whenConfigured, sequenceOf, sequenceFor]
  | rdtemps c =>
    cases hp : s.phase <;> cases hc : countLegal c <;>
      simp_all [accept, acceptRdtemps, whenConfigured, sequenceOf, sequenceFor]
  | setmode v => cases hp : s.phase <;> simp_all [accept, acceptSetmode, acceptConfig, whenConfigured, sequenceOf, sequenceFor]
  | trigrst v => cases hp : s.phase <;> simp_all [accept, acceptTrigrst, acceptConfig, whenConfigured, sequenceOf, sequenceFor]
  | setrate v => cases hp : s.phase <;> simp_all [accept, acceptSetrate, acceptConfig, whenConfigured, sequenceOf, sequenceFor]
  | setint v => cases hp : s.phase <;> simp_all [accept, acceptSetint, acceptConfig, whenConfigured, sequenceOf, sequenceFor]
  | clrstat v => cases hp : s.phase <;> simp_all [accept, acceptClrstat, acceptConfig, whenConfigured, sequenceOf, sequenceFor]

end Acceptance

end Sys2Proof.Machine
end

