-- ==== Sys2Proof/Laws/Commands.lean ====
section
/-! SUPPORT. What each command's own small steps do, said once: which sequence an opcode names, the answer step of the two
sampling commands, and what no answer step or finish touches. -/

namespace Sys2Proof.Machine

/-- Everything `sequenceOf` can answer. -/
theorem sequenceOf_cases {op : Byte} {q : Sequence} (h : sequenceOf op = some q) :
    (op = 0x01 ∧ q = initSequence) ∨
    ((op = 0x10 ∨ op = 0x11 ∨ op = 0x12 ∨ op = 0x13 ∨ op = 0x15) ∧ q = configSequence) ∨
    (op = 0x20 ∧ q = scanSequence) ∨ (op = 0x21 ∧ q = thermSequence) := by
  simp only [sequenceOf] at h
  split at h
  · exact .inl ⟨‹_›, (Option.some.inj h).symm⟩
  split at h
  · exact .inr (.inl ⟨.inl ‹_›, (Option.some.inj h).symm⟩)
  split at h
  · exact .inr (.inl ⟨.inr (.inl ‹_›), (Option.some.inj h).symm⟩)
  split at h
  · exact .inr (.inl ⟨.inr (.inr (.inl ‹_›)), (Option.some.inj h).symm⟩)
  split at h
  · exact .inr (.inl ⟨.inr (.inr (.inr (.inl ‹_›))), (Option.some.inj h).symm⟩)
  split at h
  · exact .inr (.inl ⟨.inr (.inr (.inr (.inr ‹_›))), (Option.some.inj h).symm⟩)
  split at h
  · exact .inr (.inr (.inl ⟨‹_›, (Option.some.inj h).symm⟩))
  split at h
  · exact .inr (.inr (.inr ⟨‹_›, (Option.some.inj h).symm⟩))
  · cases h

/-- `MAG` holds the pixel magnitude exactly. -/
theorem toMag_pixMag (raw : Word) : (toMag (pixMag raw)).toInt = pixMag raw := by
  have h := raw.isLt
  rw [pixMag_eq]
  split <;> exact toMag_toInt (by omega) (by omega)

/-- `MAG` holds the thermistor magnitude exactly. -/
theorem toMag_thMag (raw : Word) : (toMag (thMag raw)).toInt = thMag raw := by
  rw [thMag_eq]
  split <;> exact toMag_toInt (by omega) (by omega)

/-- A sample outside the window ends the scan. -/
theorem scanAnswer_range {w : Word} (h : violates (pixMag w) = true) (s : State) :
    scanAnswer w s = respond .range (accPrefix s.step.toNat s) (loadPixel w s) := by
  rw [scanAnswer, if_pos (by rw [loadPixel, toMag_pixMag]; exact h)]
  rfl

/-- A sample in the window is stored, and the scan goes on. -/
theorem scanAnswer_store {w : Word} (h : violates (pixMag w) = false) (s : State) :
    scanAnswer w s = { s with
      raw := w, mag := toMag (pixMag w), step := s.step + 1
      acc := s.acc.setIfInBounds s.step.toNat (outWord (pixMag w)) } := by
  rw [scanAnswer, if_neg (by rw [loadPixel, toMag_pixMag, h]; exact Bool.false_ne_true)]
  simp only [loadPixel, writeAcc, toMag_pixMag]

theorem accPrefix_zero (s : State) : accPrefix 0 s = [] := rfl

theorem accPrefix_length_le (n : Nat) (s : State) : (accPrefix n s).length ≤ 64 := by
  simp [accPrefix]

theorem accPrefix_length {n : Nat} (h : n ≤ 64) (s : State) : (accPrefix n s).length = n := by
  simpa [accPrefix] using h

/-- The thermistor sample is stored in `ACC[0]` and answered. -/
theorem thermAnswer_eq (w : Word) (s : State) :
    thermAnswer w s = { s with
      raw := w, mag := toMag (thMag w), step := 1, busy := false
      acc := s.acc.setIfInBounds 0 (outWord (thMag w))
      responses := s.responses ++ [{ status := .ok, data := [outWord (thMag w)] }] } := by
  have ha : ∀ t : State, t.acc = s.acc.setIfInBounds 0 (outWord (thMag w)) → accPrefix 1 t = [outWord (thMag w)] := by
    intro t ht
    have hn : s.acc.toList ≠ [] := by
      intro h
      have := congrArg List.length h
      simp at this
    obtain ⟨x, xs, hx⟩ := List.exists_cons_of_ne_nil hn
    rw [accPrefix, ht, Vector.toList_setIfInBounds, hx]
    rfl
  simp only [thermAnswer, loadTherm, writeAcc, respond, toMag_thMag]
  rw [ha _ rfl]

section Kept
variable {q : Sequence} {s : State}

/-- What no *Answer Ok* touches. -/
theorem answerOk_keeps (hq : sequenceOf s.op = some q) (w : Word) :
    (q.answerOk w s).op = s.op ∧ (q.answerOk w s).arg = s.arg ∧ (q.answerOk w s).inputs = s.inputs ∧
    (q.answerOk w s).trace = s.trace ∧ (q.answerOk w s).delivered = s.delivered ∧
    (q.answerOk w s).pending = s.pending ∧ (q.answerOk w s).draws = s.draws ∧
    (q.answerOk w s).phase = s.phase ∧ (q.answerOk w s).devAddr = s.devAddr ∧
    (q.answerOk w s).commands = s.commands := by
  rcases sequenceOf_cases hq with ⟨_, rfl⟩ | ⟨_, rfl⟩ | ⟨_, rfl⟩ | ⟨_, rfl⟩
  · exact ⟨rfl, rfl, rfl, rfl, rfl, rfl, rfl, rfl, rfl, rfl⟩
  · exact ⟨rfl, rfl, rfl, rfl, rfl, rfl, rfl, rfl, rfl, rfl⟩
  · cases hv : violates (pixMag w) with
    | true => simp only [scanSequence, scanAnswer_range hv]; exact ⟨rfl, rfl, rfl, rfl, rfl, rfl, rfl, rfl, rfl, rfl⟩
    | false => simp only [scanSequence, scanAnswer_store hv]; trivial
  · exact ⟨rfl, rfl, rfl, rfl, rfl, rfl, rfl, rfl, rfl, rfl⟩

/-- What no *Finish* touches. -/
theorem finish_keeps (hq : sequenceOf s.op = some q) :
    (q.finish s).op = s.op ∧ (q.finish s).arg = s.arg ∧ (q.finish s).inputs = s.inputs ∧
    (q.finish s).trace = s.trace ∧ (q.finish s).delivered = s.delivered ∧ (q.finish s).pending = s.pending ∧
    (q.finish s).draws = s.draws ∧ (q.finish s).devAddr = s.devAddr ∧ (q.finish s).acc = s.acc ∧
    (q.finish s).commands = s.commands := by
  rcases sequenceOf_cases hq with ⟨_, rfl⟩ | ⟨_, rfl⟩ | ⟨_, rfl⟩ | ⟨_, rfl⟩ <;>
    exact ⟨rfl, rfl, rfl, rfl, rfl, rfl, rfl, rfl, rfl, rfl⟩

/-- The command in progress stays the same one until it ends. -/
theorem settle_op (hq : sequenceOf s.op = some q) : (settle q s).op = s.op := by
  rcases settle_cases q s with ⟨e, _⟩ | ⟨r, _, _, _, e⟩ | ⟨_, _, _, _, e⟩ <;> rw [e]
  · rfl
  · exact (finish_keeps hq).1

theorem settle_inputs (hq : sequenceOf s.op = some q) : (settle q s).inputs = s.inputs := by
  rcases settle_cases q s with ⟨e, _⟩ | ⟨r, _, _, _, e⟩ | ⟨_, _, _, _, e⟩ <;> rw [e]
  · rfl
  · exact (finish_keeps hq).2.2.1

theorem answer_op (hq : sequenceOf s.op = some q) (a : Reply) : (answer q a s).op = s.op := by
  cases hp : s.pending with
  | none => simp [answer, hp]
  | some r =>
    cases ha : a.err with
    | true => simp [answer_err hp ha]
    | false =>
      rw [answer_ok hp ha, (answerOk_keeps (by simpa using hq) _).1]
      simp

theorem answer_inputs (hq : sequenceOf s.op = some q) (a : Reply) : (answer q a s).inputs = s.inputs := by
  cases hp : s.pending with
  | none => simp [answer, hp]
  | some r =>
    cases ha : a.err with
    | true => simp [answer_err hp ha]
    | false =>
      rw [answer_ok hp ha, (answerOk_keeps (by simpa using hq) _).2.2.1]
      simp

/-- No small step reads or writes the list of commands taken. -/
theorem settle_commands (hq : sequenceOf s.op = some q) : (settle q s).commands = s.commands := by
  rcases settle_cases q s with ⟨e, _⟩ | ⟨r, _, _, _, e⟩ | ⟨_, _, _, _, e⟩ <;> rw [e]
  · rfl
  · exact (finish_keeps hq).2.2.2.2.2.2.2.2.2

theorem answer_commands (hq : sequenceOf s.op = some q) (a : Reply) : (answer q a s).commands = s.commands := by
  cases hp : s.pending with
  | none => simp [answer, hp]
  | some r =>
    cases ha : a.err with
    | true => simp [answer_err hp ha]
    | false =>
      rw [answer_ok hp ha, (answerOk_keeps (by simpa using hq) _).2.2.2.2.2.2.2.2.2]
      simp

/-- Carrying a command on notes no command: it takes none from the port. -/
theorem drive_commands {q : Sequence} :
    ∀ (ins : List Input) {s : State}, sequenceOf s.op = some q → (drive q ins s).commands = s.commands := by
  intro ins s hq
  refine (drive_keeps (q := q) (P := fun t => sequenceOf t.op = some q ∧ t.commands = s.commands) ?_ ?_ ?_ ins s
    ⟨hq, rfl⟩).2
  · exact fun t _ h => h
  · exact fun t h => ⟨by rw [settle_op h.1]; exact h.1, by rw [settle_commands h.1]; exact h.2⟩
  · exact fun a t _ h => ⟨by rw [answer_op h.1]; exact h.1, by rw [answer_commands h.1]; exact h.2⟩

end Kept

section Events
variable {q : Sequence} {s : State}

/-- No small step reads the events still to come. -/
theorem sequence_setInputs (hq : sequenceOf s.op = some q) (ins : List Input) :
    q.request (setInputs ins s) = q.request s ∧ q.done (setInputs ins s) = q.done s ∧
    q.finish (setInputs ins s) = setInputs ins (q.finish s) ∧
    ∀ w, q.answerOk w (setInputs ins s) = setInputs ins (q.answerOk w s) := by
  rcases sequenceOf_cases hq with ⟨_, rfl⟩ | ⟨_, rfl⟩ | ⟨_, rfl⟩ | ⟨_, rfl⟩
  · exact ⟨rfl, rfl, rfl, fun _ => rfl⟩
  · exact ⟨rfl, rfl, rfl, fun _ => rfl⟩
  · refine ⟨rfl, rfl, rfl, fun w => ?_⟩
    cases hv : violates (pixMag w) with
    | true => simp only [scanSequence, scanAnswer_range hv]; rfl
    | false => simp only [scanSequence, scanAnswer_store hv]; rfl
  · refine ⟨rfl, rfl, rfl, fun w => ?_⟩
    simp only [thermSequence, thermAnswer_eq]
    rfl

theorem settle_setInputs (hq : sequenceOf s.op = some q) (ins : List Input) :
    settle q (setInputs ins s) = setInputs ins (settle q s) := by
  obtain ⟨hr, hd, hf, _⟩ := sequence_setInputs hq ins
  cases hb : s.busy with
  | false => rw [settle_idle hb, settle_idle (by simpa using hb)]
  | true =>
    cases hp : s.pending with
    | some r => rw [settle_waiting hp, settle_waiting (s := setInputs ins s) (r := r) (by simpa using hp)]
    | none =>
      cases hx : q.request s with
      | some r => rw [settle_issue hb hp hx, settle_issue (s := setInputs ins s) hb hp (hr.trans hx)]; rfl
      | none =>
        cases hy : q.done s with
        | true =>
          rw [settle_finish hb hp hx hy, settle_finish (s := setInputs ins s) hb hp (hr.trans hx) (hd.trans hy), hf]
        | false => simp [settle, hb, hp, hr, hx, hd, hy]

theorem closeRequest_setInputs (r : Request) (a : Reply) (ins : List Input) (s : State) :
    closeRequest r a (setInputs ins s) = setInputs ins (closeRequest r a s) := by
  cases ha : a.err with
  | true => rw [closeRequest_err ha, closeRequest_err ha]; rfl
  | false => rw [closeRequest_ok ha, closeRequest_ok ha]; rfl

theorem answer_setInputs (hq : sequenceOf s.op = some q) (a : Reply) (ins : List Input) :
    answer q a (setInputs ins s) = setInputs ins (answer q a s) := by
  cases hp : s.pending with
  | none => simp [answer, hp]
  | some r =>
    have hp' : (setInputs ins s).pending = some r := hp
    cases ha : a.err with
    | true =>
      rw [answer_err hp ha, answer_err hp' ha, closeRequest_setInputs]
      rfl
    | false =>
      rw [answer_ok hp ha, answer_ok hp' ha, closeRequest_setInputs]
      exact (sequence_setInputs (by simpa using hq) ins).2.2.2 _

theorem accept_setInputs (i : Instr) (ins : List Input) (s : State) :
    accept i (setInputs ins s) = setInputs ins (accept i s) := by
  cases hp : s.phase with
  | uninit =>
    have hp' : (setInputs ins s).phase = .uninit := hp
    cases i <;>
      simp only [accept, acceptSetmode, acceptTrigrst, acceptSetrate, acceptSetint, acceptClrstat, acceptConfig,
        acceptRdtemps, acceptRdtherm, whenConfigured_uninit hp, whenConfigured_uninit hp'] <;> rfl
  | configured =>
    have hp' : (setInputs ins s).phase = .configured := hp
    cases i with
    | rdtemps c =>
      cases hc : countLegal c <;>
        simp only [accept, acceptRdtemps, whenConfigured_configured hp, whenConfigured_configured hp', hc] <;> rfl
    | init a => rfl
    | setmode v => simp only [accept, acceptSetmode, acceptConfig, whenConfigured_configured hp, whenConfigured_configured hp']; rfl
    | trigrst v => simp only [accept, acceptTrigrst, acceptConfig, whenConfigured_configured hp, whenConfigured_configured hp']; rfl
    | setrate v => simp only [accept, acceptSetrate, acceptConfig, whenConfigured_configured hp, whenConfigured_configured hp']; rfl
    | setint v => simp only [accept, acceptSetint, acceptConfig, whenConfigured_configured hp, whenConfigured_configured hp']; rfl
    | clrstat v => simp only [accept, acceptClrstat, acceptConfig, whenConfigured_configured hp, whenConfigured_configured hp']; rfl
    | rdtherm => simp only [accept, acceptRdtherm, whenConfigured_configured hp, whenConfigured_configured hp']; rfl

/-- Accepting a command notes nothing: the word is noted where it is taken from the port. -/
theorem accept_commands (i : Instr) (s : State) : (accept i s).commands = s.commands := by
  cases hp : s.phase with
  | uninit =>
    cases i <;>
      simp [accept, acceptSetmode, acceptTrigrst, acceptSetrate, acceptSetint, acceptClrstat, acceptConfig, acceptRdtemps,
        acceptRdtherm, whenConfigured_uninit hp]
  | configured =>
    cases i with
    | rdtemps c => cases hc : countLegal c <;> simp [accept, acceptRdtemps, whenConfigured_configured hp, hc]
    | init a => rfl
    | _ =>
      simp [accept, acceptSetmode, acceptTrigrst, acceptSetrate, acceptSetint, acceptClrstat, acceptConfig, acceptRdtherm,
        whenConfigured_configured hp]

end Events

end Sys2Proof.Machine
end

