-- ==== Sys2Proof/Laws/Count.lean ====
section
/-! SUPPORT. Counting the words with a property, by intervals, without enumerating them. -/

namespace Sys2Proof.Machine

/-- The words of an interval. -/
def between (a b : Nat) (w : Word) : Bool := decide (a ≤ w.toNat) && decide (w.toNat ≤ b)

theorem between_disjoint {a b c d : Nat} (h : b < c) (w : Word) : between a b w = true → between c d w = false := by
  simp only [between, Bool.and_eq_true, decide_eq_true_eq, Bool.and_eq_false_iff, decide_eq_false_iff_not]
  omega

theorem countWords_or {p q : Word → Bool} (h : ∀ w, p w = true → q w = false) :
    countWords (fun w => p w || q w) = countWords p + countWords q := by
  unfold countWords
  rw [← Finset.card_union_of_disjoint, ← Finset.filter_or]
  · simp only [Bool.or_eq_true]
  · refine Finset.disjoint_filter.2 fun w _ h1 h2 => ?_
    rw [h w h1] at h2
    cases h2

theorem countWords_between (a b : Nat) (hb : b < 65536) : countWords (between a b) = b + 1 - a := by
  rw [← Nat.card_Icc, countWords]
  refine Finset.card_bij (fun w _ => w.toNat) ?_ ?_ ?_
  · intro w h
    simpa [between] using h
  · intro v _ w _ h
    exact BitVec.eq_of_toNat_eq h
  · intro n h
    simp at h
    exact ⟨BitVec.ofNat 16 n, by simp [between]; omega, by simp; omega⟩

theorem countWords_not (p : Word → Bool) : countWords (fun w => !p w) = 65536 - countWords p := by
  have h : countWords (fun w => p w || !p w) = 65536 := by
    rw [← Nat.sub_zero 65536, show (65536 - 0 = 65535 + 1 - 0) from rfl, ← countWords_between 0 65535 (by omega)]
    congr 1
    funext w
    have := w.isLt
    simp [between]
    omega
  rw [countWords_or (by intro w h; simp [h])] at h
  generalize countWords p = a at *
  generalize countWords (fun w => !p w) = b at *
  omega

end Sys2Proof.Machine
end

