-- ==== Sys2Proof/Laws/Encoding.lean ====
section
/-! SUPPORT. The fields of a command word put together from an opcode and an operand. -/

namespace Sys2Proof

theorem wordOf_toNat (op arg : Byte) : (wordOf op arg).toNat = op.toNat * 256 + arg.toNat := by
  have h := arg.isLt
  have e : (wordOf op arg).toNat = op.toNat <<< 8 ||| arg.toNat := BitVec.toNat_append op arg
  rw [e, ← Nat.shiftLeft_add_eq_or_of_lt h, Nat.shiftLeft_eq]

theorem opField_toNat (w : Word) : (opField w).toNat = w.toNat / 256 := by
  have h := w.isLt
  simp only [opField, BitVec.extractLsb'_toNat, Nat.shiftRight_eq_div_pow]
  omega

theorem argField_toNat (w : Word) : (argField w).toNat = w.toNat % 256 := by
  simp [argField, BitVec.extractLsb'_toNat]

@[simp] theorem opField_wordOf (op arg : Byte) : opField (wordOf op arg) = op := by
  have h := arg.isLt
  apply BitVec.eq_of_toNat_eq
  rw [opField_toNat, wordOf_toNat]
  omega

@[simp] theorem argField_wordOf (op arg : Byte) : argField (wordOf op arg) = arg := by
  have h := arg.isLt
  apply BitVec.eq_of_toNat_eq
  rw [argField_toNat, wordOf_toNat]
  omega

/-- A word is its opcode and its operand. -/
theorem wordOf_fields (w : Word) : wordOf (opField w) (argField w) = w := by
  apply BitVec.eq_of_toNat_eq
  rw [wordOf_toNat, opField_toNat, argField_toNat]
  omega

/-- Two words with the same opcode and operand are the same. -/
theorem word_ext {v w : Word} (ho : opField v = opField w) (ha : argField v = argField w) : v = w := by
  rw [← wordOf_fields v, ← wordOf_fields w, ho, ha]

theorem wordOf_inj {a b c d : Byte} : wordOf a b = wordOf c d ↔ a = c ∧ b = d := by
  constructor
  · intro h
    exact ⟨by simpa using congrArg opField h, by simpa using congrArg argField h⟩
  · rintro ⟨rfl, rfl⟩
    rfl

/-- A mask acts on the opcode and the operand apart. -/
theorem wordOf_and (a b c d : Byte) : wordOf a b &&& wordOf c d = wordOf (a &&& c) (b &&& d) := BitVec.and_append

@[simp] theorem addrField_addrArg (addr : DevAddr) : addrField (addrArg addr) = addr := by
  have h := addr.isLt
  apply BitVec.eq_of_toNat_eq
  simp only [addrField, addrArg, BitVec.extractLsb'_toNat, BitVec.toNat_setWidth, Nat.shiftRight_zero]
  omega

/-- An operand byte with bit 7 clear is `{0, addr}`. -/
theorem addrArg_addrField {arg : Byte} (h : arg.getLsbD 7 = false) : addrArg (addrField arg) = arg := by
  revert arg
  decide

theorem addrArg_bit7 (addr : DevAddr) : (addrArg addr).getLsbD 7 = false := by
  simp [addrArg]

@[simp] theorem addrArg_getElem7 (addr : DevAddr) : (addrArg addr)[7] = false := by
  simp [addrArg]

end Sys2Proof
end

