-- ==== Sys2Proof/Laws/PerInstr.lean ====
section
/-! SUPPORT. Per instruction, as syntax: its word has the fixed bits of its row of the opcode table. -/

namespace Sys2Proof.Laws.EncodesRow

/-- The place of an instruction's row in the opcode table. -/
def rowIndex : Instr → Nat
  | .init _ => 0
  | .setmode _ => 1
  | .trigrst _ => 2
  | .setrate _ => 3
  | .setint _ => 4
  | .clrstat _ => 5
  | .rdtemps _ => 6
  | .rdtherm => 7

/-- The word of the instruction fits its own row of the opcode table (R72). -/
def Statement (i : Instr) : Prop := (opcodeRows[rowIndex i]?.map (fun r => r.fits (encode i))) = some true

/-- The instruction's row accepts its word, for every operand of a format with an 8-bit operand. -/
theorem of_all {mk : Byte → Instr} {k : Nat} (hk : ∀ v, rowIndex (mk v) = k)
    (h : ∀ v : Byte, (opcodeRows[k]?.map (fun r => r.fits (encode (mk v)))) = some true) (v : Byte) :
    Statement (mk v) := by
  rw [Statement, hk v]
  exact h v

theorem init (addr : DevAddr) : Statement (.init addr) := by
  have h : ∀ a : DevAddr, (opcodeRows[0]?.map (fun r => r.fits (encode (.init a)))) = some true := by decide
  exact h addr

theorem setmode (v : Byte) : Statement (.setmode v) := of_all (mk := .setmode) (fun _ => rfl) (by decide) v

theorem trigrst (v : Byte) : Statement (.trigrst v) := of_all (mk := .trigrst) (fun _ => rfl) (by decide) v

theorem setrate (v : Byte) : Statement (.setrate v) := of_all (mk := .setrate) (fun _ => rfl) (by decide) v

theorem setint (v : Byte) : Statement (.setint v) := of_all (mk := .setint) (fun _ => rfl) (by decide) v

theorem clrstat (v : Byte) : Statement (.clrstat v) := of_all (mk := .clrstat) (fun _ => rfl) (by decide) v

theorem rdtemps (v : Byte) : Statement (.rdtemps v) := of_all (mk := .rdtemps) (fun _ => rfl) (by decide) v

theorem rdtherm : Statement .rdtherm := rfl

end Sys2Proof.Laws.EncodesRow
end

