-- ==== Sys2Proof/Laws/Safety.lean ====
section
/-! SUPPORT. The terms of the invariant: which updates the next request does not read, what a command in flight is, and
which requests and words are legal. -/

namespace Sys2Proof.Machine

/-- The next request reads `OP`, `ARG`, `STEP` and `DEV_ADDR`, nothing else. -/
theorem nextRequest_congr {s t : State} (ho : t.op = s.op) (ha : t.arg = s.arg) (hs : t.step = s.step)
    (hd : t.devAddr = s.devAddr) : nextRequest t = nextRequest s := by
  have hr : ∀ q, sequenceOf s.op = some q → q.request t = q.request s := by
    intro q hq
    simp only [sequenceOf] at hq
    repeat' split at hq
    all_goals cases hq
    all_goals
      simp only [initSequence, configSequence, scanSequence, thermSequence, initRequest, configRequest, scanRequest,
        thermRequest, ho, ha, hs, hd]
  rw [nextRequest, nextRequest, ho]
  split
  · rename_i q hq
    exact hr q hq
  · rfl

theorem nextRequest_setInputs (ins : List Input) (s : State) : nextRequest (setInputs ins s) = nextRequest s :=
  nextRequest_congr rfl rfl rfl rfl

theorem nextRequest_send (r : Request) (s : State) : nextRequest (send r s) = nextRequest s :=
  nextRequest_congr rfl rfl rfl rfl

theorem nextRequest_respond (st : Status) (d : List Word) (s : State) : nextRequest (respond st d s) = nextRequest s :=
  nextRequest_congr rfl rfl rfl rfl

theorem nextRequest_recordCommand (w : Word) (s : State) : nextRequest (recordCommand w s) = nextRequest s :=
  nextRequest_congr rfl rfl rfl rfl

theorem legalRequest_pixel (dev : DevAddr) {i : Nat} (h : i < 64) :
    legalRequest (readWord dev (pixelReg i)) = true := by
  simp only [legalRequest, readWord, littleEndian, Bool.and_eq_true, Bool.or_eq_true, List.any_eq_true]
  exact ⟨⟨rfl, rfl⟩, .inr ⟨i, List.mem_range.mpr h, beq_self_eq_true _⟩⟩

theorem countLegal_iff (count : Byte) : countLegal count = true ↔ 1 ≤ count.toNat ∧ count.toNat ≤ 64 := by
  rw [countLegal, Bool.and_eq_true, decide_eq_true_eq, decide_eq_true_eq]
  rfl

/-- A command in flight, spelled out. -/
theorem commandInFlight_iff (s : State) : commandInFlight s = true ↔
    (s.op = 0x01 ∧ s.phase = .uninit ∧ s.arg = addrArg s.devAddr ∧ s.step.toNat ≤ 4) ∨
    ((s.op = 0x10 ∨ s.op = 0x11 ∨ s.op = 0x12 ∨ s.op = 0x13 ∨ s.op = 0x15) ∧ s.phase = .configured ∧ s.step = 0) ∨
    (s.op = 0x20 ∧ s.phase = .configured ∧ 1 ≤ s.arg.toNat ∧ s.arg.toNat ≤ 64 ∧ s.step.toNat ≤ s.arg.toNat) ∨
    (s.op = 0x21 ∧ s.arg = 0 ∧ s.phase = .configured ∧ s.step = 0) := by
  have ha : s.arg.getLsbD 7 = false → (s.devAddr = addrField s.arg ↔ s.arg = addrArg s.devAddr) := by
    intro h
    constructor
    · intro e
      rw [e, addrArg_addrField h]
    · intro e
      rw [e, addrField_addrArg]
  rw [commandInFlight, decode, opField_wordOf, argField_wordOf]
  by_cases h1 : s.op = 0x01
  · simp only [h1, if_true]
    cases hb : s.arg.getLsbD 7 with
    | false => simp [ha hb, and_assoc]
    | true =>
      have hn : s.arg ≠ addrArg s.devAddr := by
        intro e
        rw [e, addrArg_bit7] at hb
        cases hb
      simp [hn]
  simp only [h1, if_false, false_and, false_or]
  by_cases h2 : s.op = 0x10
  · simp [h2]
  by_cases h3 : s.op = 0x11
  · simp [h3]
  by_cases h4 : s.op = 0x12
  · simp [h4]
  by_cases h5 : s.op = 0x13
  · simp [h5]
  by_cases h6 : s.op = 0x15
  · simp [h6]
  simp only [h2, h3, h4, h5, h6, if_false, false_and, false_or]
  by_cases h7 : s.op = 0x20
  · simp [h7, countLegal_iff, and_assoc]
  simp only [h7, if_false, false_and, false_or]
  by_cases h8 : s.op = 0x21
  · rw [if_pos h8]
    by_cases h9 : s.arg = 0x00
    · rw [if_pos h9]
      simp [h8, h9]
    · rw [if_neg h9]
      simpa [h8] using fun h => absurd h h9
  · rw [if_neg h8]
    simpa using fun h => absurd h h8

end Sys2Proof.Machine
end

