-- ==== Sys2Proof/Tests/Slice0.lean ====
section
/-! SUPPORT. The model's own tests: ill-formed terms the checks refuse, words written out from the encoding, one step of each
command against the test vectors of the spec, and a state and operands for the hypotheses of each statement. -/

open Sys2Proof Sys2Proof.Machine Sys2Proof.Claims

namespace Sys2Proof.Tests

/-! ### Helpers -/

/-- The idle block after reset, with these events to come. -/
def idleWith (ins : List Input) : State := { State.reset with inputs := ins }

/-- The idle block with a handle to device 0x69, with these events to come. -/
def readyWith (ins : List Input) : State := { State.reset with phase := .configured, devAddr := 0x69, inputs := ins }

/-- The block waiting for the answer to the read of `RDTHERM`, after a successful `INIT 0x69`, with these events to come. -/
def waitingWith (ins : List Input) : State :=
  { State.reset with
    phase := .configured, devAddr := 0x69, busy := true, op := 0x21, inputs := ins
    commands := [0x0169, 0x2100]
    pending := some (readWord 0x69 0x0E)
    trace := initWrites 0x69 ++ [readWord 0x69 0x0E]
    delivered := initWrites 0x69
    responses := [{ status := .ok, data := [] }] }

/-- Something of the next state, where there is one. -/
def after {α : Type} (f : State → α) : Host.Outcome State Fault Refusal → Option α
  | .next t => some (f t)
  | .fault _ => none
  | .refused _ => none

/-- The refusal of an outcome, where it is one. -/
def refusal : Host.Outcome State Fault Refusal → Option Refusal
  | .next _ => none
  | .fault _ => none
  | .refused r => some r

/-- What the host gets back, word by word. -/
def received (s : State) : List (List Word) := s.responses.map Response.words

/-- The requests sent, packed. -/
def sent (s : State) : List (BitVec 25) := s.trace.map Request.pack

/-! ### Ill-formed terms are refused, one for each check -/

theorem test_word_opcode_unknown : wordWellFormed 0x1400 = false := by decide
theorem test_word_all_zero : wordWellFormed 0x0000 = false := by decide
theorem test_word_all_ones : wordWellFormed 0xFFFF = false := by decide
theorem test_word_init_bit7 : wordWellFormed 0x0180 = false := by decide
theorem test_word_rdtherm_operand : wordWellFormed 0x2101 = false := by decide
theorem test_word_well_formed : wordWellFormed 0x017F = true := by decide
theorem test_source_init_above : (SourceCommand.mk .init (some 0x80)).wellFormed = false := by decide
theorem test_source_init_missing : (SourceCommand.mk .init none).wellFormed = false := by decide
theorem test_source_setmode_above : (SourceCommand.mk .setmode (some 256)).wellFormed = false := by decide
theorem test_source_setmode_missing : (SourceCommand.mk .setmode none).wellFormed = false := by decide
theorem test_source_trigrst_above : (SourceCommand.mk .trigrst (some 256)).wellFormed = false := by decide
theorem test_source_trigrst_missing : (SourceCommand.mk .trigrst none).wellFormed = false := by decide
theorem test_source_setrate_above : (SourceCommand.mk .setrate (some 256)).wellFormed = false := by decide
theorem test_source_setrate_missing : (SourceCommand.mk .setrate none).wellFormed = false := by decide
theorem test_source_setint_above : (SourceCommand.mk .setint (some 256)).wellFormed = false := by decide
theorem test_source_setint_missing : (SourceCommand.mk .setint none).wellFormed = false := by decide
theorem test_source_clrstat_above : (SourceCommand.mk .clrstat (some 256)).wellFormed = false := by decide
theorem test_source_clrstat_missing : (SourceCommand.mk .clrstat none).wellFormed = false := by decide
theorem test_source_rdtemps_above : (SourceCommand.mk .rdtemps (some 256)).wellFormed = false := by decide
theorem test_source_rdtemps_missing : (SourceCommand.mk .rdtemps none).wellFormed = false := by decide
theorem test_source_rdtherm_operand : (SourceCommand.mk .rdtherm (some 0)).wellFormed = false := by decide
theorem test_source_rdframe_operand : (SourceCommand.mk .rdframe (some 64)).wellFormed = false := by decide

/-! ### Decoding: each word written out from its pattern in R72 (part 2.1 of the test vectors) -/

theorem test_decode_init : decode 0b00000001_0_1101001 = .ok (.init 0x69) := by decide
theorem test_decode_init_largest : decode 0b00000001_0_1111111 = .ok (.init 0x7F) := by decide
theorem test_decode_init_bit7 : decode 0b00000001_1_1101001 = .error .initBit7 := by decide
theorem test_decode_setmode : decode 0b00010000_11111111 = .ok (.setmode 0xFF) := by decide
theorem test_decode_trigrst : decode 0b00010001_00111111 = .ok (.trigrst 0x3F) := by decide
theorem test_decode_setrate : decode 0b00010010_00000001 = .ok (.setrate 0x01) := by decide
theorem test_decode_setint : decode 0b00010011_00000000 = .ok (.setint 0x00) := by decide
theorem test_decode_clrstat : decode 0b00010101_00000110 = .ok (.clrstat 0x06) := by decide
theorem test_decode_rdtemps : decode 0b00100000_01000001 = .ok (.rdtemps 65) := by decide
theorem test_decode_rdtherm : decode 0b00100001_00000000 = .ok .rdtherm := by decide
theorem test_decode_rdtherm_operand : decode 0b00100001_00000001 = .error .thermOperand := by decide
theorem test_decode_opcode : decode 0b00010110_00000000 = .error (.opcode 0x16) := by decide
theorem test_decode_table_word : decodeTableWord 16 0x2040 = some (.rdtemps 64) := by decide
theorem test_encode_init : encode (.init 0x68) = 0x0168 := by decide

/-! ### The converter and the validator (parts 2.4 and 2.5) -/

theorem test_pixel_lower_bound :
    pixMag 0x0FB0 = -80 ∧ violates (pixMag 0x0FB0) = false ∧ pixWord 0x0FB0 = 0xFFB0 := by decide
theorem test_pixel_below : pixMag 0x0FAF = -81 ∧ violates (pixMag 0x0FAF) = true := by decide
theorem test_pixel_bit12 : pixMag 0x1190 = 400 ∧ accepted 0x1190 = true ∧ accepted 0x1191 = false := by decide
theorem test_pixel_17_bits : pixMag 0x9000 = 32768 ∧ (toMag (pixMag 0x9000)).toInt = 32768 := by decide
theorem test_therm_negative : thMag 0x0990 = -400 ∧ thWord 0x0990 = 0xFE70 := by decide
theorem test_therm_all_ones : thMag 0xFFFF = -2047 ∧ thWord 0xFFFF = 0xF801 := by decide

/-! ### Messages (parts 2.2 and 2.3) -/

theorem test_pack_write : (writeByte 0x69 0x05 0x06).pack = 0x0690506 := by decide
theorem test_last_pixel_register : pixelReg 63 = 0xFE := by decide
theorem test_pack_read : (readWord 0x68 (pixelReg 1)).pack = 0x1E88200 := by decide
theorem test_pack_err : (Reply.mk true 0).pack = 0x10000 := by decide
theorem test_header_range : (Response.mk .range [0x0050, 0x0054, 0x0058, 0x005C, 0x0060]).hdr = 0x1005 := by decide

/-! ### One step of each command (parts 2.7 to 2.11): the requests sent and what the host gets back -/

theorem test_init_ok :
    after (fun t => (sent t, received t, t.phase, t.devAddr))
      (step (idleWith [.command 0x0169, okReply 0, okReply 0, okReply 0, okReply 0])) =
    some ([0x0690000, 0x069013F, 0x0690300, 0x0690200], [[0x0000]], .configured, 0x69) := by decide

theorem test_init_err_drops_the_old_handle :
    after (fun t => (sent t, received t, t.phase, t.busy))
      (step (readyWith [.command 0x0169, okReply 0, okReply 0, errReply 0])) =
    some ([0x0690000, 0x069013F, 0x0690300], [[0x2000]], .uninit, false) := by decide

theorem test_setmode_any_byte :
    after (fun t => (sent t, received t)) (step (readyWith [.command 0x10AB, okReply 0])) =
    some ([0x06900AB], [[0x0000]]) := by decide

theorem test_setmode_waits :
    after (fun t => (sent t, received t, t.busy)) (step (readyWith [.command 0x1000])) =
    some ([0x0690000], [], true) := by decide

theorem test_trigrst_keeps_the_handle :
    after (fun t => (sent t, received t, t.phase)) (step (readyWith [.command 0x113F, okReply 0])) =
    some ([0x069013F], [[0x0000]], .configured) := by decide

theorem test_setrate :
    after (fun t => (sent t, received t)) (step (readyWith [.command 0x1201, okReply 0])) =
    some ([0x0690201], [[0x0000]]) := by decide

theorem test_setrate_err :
    after (fun t => (sent t, received t, t.phase)) (step (readyWith [.command 0x1201, errReply 0])) =
    some ([0x0690201], [[0x2000]], .configured) := by decide

theorem test_setint :
    after (fun t => (sent t, received t)) (step (readyWith [.command 0x1300, okReply 0])) =
    some ([0x0690300], [[0x0000]]) := by decide

theorem test_clrstat :
    after (fun t => (sent t, received t)) (step (readyWith [.command 0x1506, okReply 0])) =
    some ([0x0690506], [[0x0000]]) := by decide

theorem test_rdtemps_range :
    after (fun t => (sent t, received t, t.raw))
      (step (readyWith [.command 0x2003, okReply 0x0FB0, okReply 0x1190, okReply 0x1191])) =
    some ([0x1E98000, 0x1E98200, 0x1E98400], [[0x1002, 0xFFB0, 0x0190]], 0x1191) := by decide

theorem test_rdtemps_hang :
    after (fun t => (sent t, received t, t.step, t.acc[0])) (step (readyWith [.command 0x2002, okReply 0x0064])) =
    some ([0x1E98000, 0x1E98200], [], 1, 0x0064) := by decide

theorem test_rdtherm_negative :
    after (fun t => (sent t, received t)) (step (readyWith [.command 0x2100, okReply 0x0990])) =
    some ([0x1E90E00], [[0x0001, 0xFE70]]) := by decide

theorem test_rdtherm_is_not_validated :
    after received (step (readyWith [.command 0x2100, okReply 0x07FF])) = some [[0x0001, 0x07FF]] := by decide

theorem test_priority_illegal : after received (step (idleWith [.command 0x2101])) = some [[0x3000]] := by decide
theorem test_priority_notconf : after received (step (idleWith [.command 0x2000])) = some [[0x4000]] := by decide
theorem test_priority_badcount : after received (step (readyWith [.command 0x2041])) = some [[0x5000]] := by decide
theorem test_busy_command :
    refusal (step (waitingWith [.command 0x2100])) = some .commandWhileBusy := by decide
theorem test_unsolicited : refusal (step (idleWith [okReply 0])) = some .unsolicitedReply := by decide
theorem test_abandoned_run_has_not_ended :
    after (fun t => (t.busy, runEnded t)) (step (waitingWith [.reset])) = some (false, false) := by decide
theorem test_answered_run_has_ended :
    after (fun t => (t.busy, runEnded t)) (step (waitingWith [okReply 0])) = some (false, true) := by decide
theorem test_first_word_after_reset :
    after received (step (State.reset.withFetchWord 16 0x2100)) = some [[0x4000]] := by decide

/-! ### The hypotheses of the statements are met, at the boundary values of their ranges -/

/-- A scan waiting for its second pixel, after a successful `INIT 0x69`, with these events to come. -/
def scanningWith (ins : List Input) : State :=
  { State.reset with
    inputs := ins, commands := [0x0169, 0x2002], phase := .configured, devAddr := 0x69, busy := true, op := 0x20, arg := 2, step := 1, raw := 0x0FB0
    acc := State.reset.acc.set 0 0xFFB0
    pending := some (readWord 0x69 0x82)
    trace := initWrites 0x69 ++ [readWord 0x69 0x80, readWord 0x69 0x82]
    delivered := initWrites 0x69 ++ [readWord 0x69 0x80]
    responses := [{ status := .ok, data := [] }] }

theorem waiting_inv (ins : List Input) : BlockInv (waitingWith ins) where
  idle_quiet h := by cases h
  in_flight _ := (commandInFlight_iff _).mpr (.inr (.inr (.inr ⟨rfl, rfl, rfl, rfl⟩)))
  pending_named r h := by cases h; rfl
  acc_window _ h := by cases h
  handle_built _ := List.Sublist.refl _
  handle_growing _ h := by cases h
  trace_legal := by change ∀ r ∈ initWrites 0x69 ++ [readWord 0x69 0x0E], legalRequest r = true; decide
  delivered_sent := List.Sublist.refl _
  responses_legal := by change ∀ r ∈ [({ status := .ok, data := [] } : Response)], legalResponse r = true; decide
  responses_owed := by change 1 + 1 ≤ 2; decide

theorem scanning_inv (ins : List Input) : BlockInv (scanningWith ins) where
  idle_quiet h := by cases h
  in_flight _ := (commandInFlight_iff _).mpr (.inr (.inr (.inl
    ⟨rfl, rfl, by change 1 ≤ 2; decide, by change 2 ≤ 64; decide, by change 1 ≤ 2; decide⟩)))
  pending_named r h := by cases h; rfl
  acc_window _ _ := List.all_eq_true.mp (by change [(0xFFB0 : Word)].all inWindow = true; decide)
  handle_built _ := List.sublist_append_left _ _
  handle_growing _ h := by cases h
  trace_legal := by
    change ∀ r ∈ initWrites 0x69 ++ [readWord 0x69 0x80, readWord 0x69 0x82], legalRequest r = true
    decide
  delivered_sent := List.Sublist.refl _
  responses_legal := by change ∀ r ∈ [({ status := .ok, data := [] } : Response)], legalResponse r = true; decide
  responses_owed := by change 1 + 1 ≤ 2; decide

/-- A next state of which something is known. -/
theorem next_of_after {α : Type} {f : State → α} {o : Host.Outcome State Fault Refusal} {x : α}
    (h : after f o = some x) : ∃ t, o = .next t ∧ f t = x := by
  cases o with
  | next t => exact ⟨t, rfl, Option.some.inj h⟩
  | fault r => cases h
  | refused r => cases h

theorem idle_inv (ins : List Input) : BlockInv (idleWith ins) where
  idle_quiet _ := rfl
  in_flight h := by cases h
  pending_named r h := by cases h
  acc_window h := by cases h
  handle_built h := by cases h
  handle_growing h := by cases h
  trace_legal r h := by cases h
  delivered_sent := List.Sublist.refl _
  responses_legal r h := by cases h
  responses_owed := Nat.le_refl _

theorem idle_idle (ins : List Input) : Idle (idleWith ins) ∧ (idleWith ins).phase = .uninit := ⟨⟨rfl, rfl⟩, rfl⟩
theorem ready_idle (ins : List Input) : Idle (readyWith ins) ∧ (readyWith ins).phase = .configured := ⟨⟨rfl, rfl⟩, rfl⟩

theorem witness_EncodeOfDecode : decode 0x017F = .ok (.init 0x7F) ∧ decode 0x20FF = .ok (.rdtemps 255) := by decide

theorem witness_IllegalWordsExactly :
    (idleWith [.command 0x0180]).busy = false ∧ (idleWith [.command 0x0180]).inputs = .command 0x0180 :: [] ∧
    decode 0x0180 = .error .initBit7 ∧ decode 0x21FF = .error .thermOperand ∧ decode 0xFFFF = .error (.opcode 0xFF) ∧
    (readyWith [.command 0x0180]).busy = false := by decide

theorem witness_RequestPacking :
    nextRequest (waitingWith []) = some (readWord 0x69 0x0E) ∧
    nextRequest { waitingWith [] with op := 0x15, arg := 0x06 } = some (writeByte 0x69 0x05 0x06) := by decide

theorem witness_ReplyPacking :
    (Reply.mk true 0).err = true ∧ (Reply.mk true 0xFFFF).err = true ∧ (Reply.mk false 0).err = false ∧
    (Reply.mk false 0xFFFF).err = false ∧ (waitingWith []).pending.isSome = true := by decide

theorem witness_OneResponsePerCommand_ends :
    ∃ t, exec .rdtherm (readyWith [okReply 0x0190]) = .next t ∧ t.busy = false := next_of_after (by decide)
theorem witness_OneResponsePerCommand_waits :
    ∃ t, exec .rdtherm (readyWith []) = .next t ∧ t.busy = true := next_of_after (by decide)
theorem witness_OneResponsePerCommand_step :
    BlockInv (scanningWith [okReply 0x0190]) ∧ (scanningWith [okReply 0x0190]).busy = true ∧
    (scanningWith [okReply 0x0190]).inputs.head? ≠ some .reset ∧
    ∃ t, step (scanningWith [okReply 0x0190]) = .next t ∧ t.busy = false :=
  ⟨scanning_inv _, rfl, by decide, next_of_after (by decide)⟩
theorem witness_OneResponsePerCommand_port :
    BlockInv (idleWith [.command 0x2100]) ∧ (idleWith [.command 0x2100]).busy = false ∧
    (idleWith [.command 0x2100]).inputs.head? = some (.command 0x2100) ∧
    ∃ t, step (idleWith [.command 0x2100]) = .next t ∧ t.busy = false :=
  ⟨idle_inv _, rfl, rfl, next_of_after (by decide)⟩
theorem witness_OneResponsePerCommand_quiet :
    BlockInv (idleWith [.delay]) ∧ (idleWith [.delay]).busy = false ∧
    (∀ w, (idleWith [.delay]).inputs.head? ≠ some (.command w)) ∧
    ∃ t, step (idleWith [.delay]) = .next t ∧ t.busy = false :=
  ⟨idle_inv _, rfl, (fun _ h => by cases h), next_of_after (by decide)⟩
theorem witness_OneResponsePerCommand_reset :
    BlockInv (waitingWith [.reset]) ∧ (waitingWith [.reset]).inputs.head? = some .reset ∧
    ∃ t, step (waitingWith [.reset]) = .next t ∧ t.busy = false := ⟨waiting_inv _, rfl, next_of_after (by decide)⟩
theorem witness_OneResponsePerCommand_legal :
    legalResponse { status := .ok, data := List.replicate 64 0xFFB0 } = true ∧
    legalResponse { status := .range, data := [] } = true ∧
    legalResponse { status := .ok, data := [0xF801] } = true := by decide

theorem witness_PseudoInstructions : Status.ok ≠ .transport ∧ Status.range ≠ .transport := by decide

theorem witness_SignTest : low11 0x07FF = true ∧ low11 0x0800 = false := by decide

theorem witness_PixelDecode :
    (0x07FF : Word) &&& 0x7FF = 0x07FF ∧ (0x0800 : Word) &&& 0x7FF ≠ 0x0800 ∧
    (0x0800 ≤ (0x0800 : Word).toNat ∧ (0x0800 : Word).toNat ≤ 0x0FFF) ∧
    (0x0800 ≤ (0x0FFF : Word).toNat ∧ (0x0FFF : Word).toNat ≤ 0x0FFF) ∧ 0x1000 ≤ (0x1000 : Word).toNat := by decide

theorem witness_ThermDecode :
    (0x07FF : Word) &&& 0x7FF = 0x07FF ∧ (0x0801 : Word) &&& 0x7FF ≠ 0x0801 ∧ (0x8001 : Word) &&& 0x7FF ≠ 0x8001 ∧
    (0x0801 : Word) &&& 0x7FF = 0x8001 &&& 0x7FF := by decide

theorem witness_NegativeZero :
    (low11 0x0800 = false ∧ (0x0800 : Word) &&& 0x7FF = 0) ∧ (low11 0xF800 = false ∧ (0xF800 : Word) &&& 0x7FF = 0) ∧
    (0x0800 : Word).toNat = 0x0800 * 1 ∧ (0xF800 : Word).toNat = 0x0800 * 31 := by decide

theorem witness_DecoderRanges :
    ((-2048 : Int) ≤ -2048 ∧ (-2048 : Int) ≤ 61439) ∧ ((-2048 : Int) ≤ 61439 ∧ (61439 : Int) ≤ 61439) ∧
    ((0 : Int) ≤ 0 ∧ (0 : Int) ≤ 2047) ∧ ((0 : Int) ≤ 2047 ∧ (2047 : Int) ≤ 2047) ∧
    ((-1 : Int) < 0 ∨ (2047 : Int) < -1) ∧ ((2048 : Int) < 0 ∨ (2047 : Int) < 2048) ∧
    0x9000 ≤ (0x9000 : Word).toNat := by decide

theorem witness_DecodersAgreeOnly : 0x1000 ≤ (0x1000 : Word).toNat ∧ 0x1000 ≤ (0xFFFF : Word).toNat := by decide

theorem witness_PixelOutputWord :
    accepted 0x0000 = true ∧ accepted 0x0190 = true ∧ accepted 0x0FB0 = true ∧ accepted 0x1190 = true := by decide

theorem witness_HostReadsFrame :
    ∀ w ∈ ([0x0000, 0x0190, 0x0FB0, 0x0FFF, 0x1190] : List Word), accepted w = true := List.all_eq_true.mp (by decide)

theorem witness_HostReadsFrame_flag :
    ∃ r e values, readTemperatures r = some (e, values) ∧ r = { status := .range, data := [] } :=
  ⟨{ status := .range, data := [] }, true, [], rfl, rfl⟩

theorem witness_InitBuildsHandle :
    Idle (idleWith [okReply 0, okReply 1, okReply 2, okReply 3]) ∧
    (idleWith [okReply 0, okReply 1, okReply 2, okReply 3]).inputs =
      okReply 0 :: okReply 1 :: okReply 2 :: okReply 3 :: [] ∧
    ([] : List Input).head? ≠ some .reset := ⟨(idle_idle _).1, rfl, by decide⟩

theorem witness_InitBuildsHandle_again :
    Idle (readyWith [okReply 0, okReply 0, okReply 0, okReply 0, .command 0x2100]) ∧
    (readyWith [okReply 0, okReply 0, okReply 0, okReply 0, .command 0x2100]).inputs =
      okReply 0 :: okReply 0 :: okReply 0 :: okReply 0 :: [.command 0x2100] ∧
    ([.command 0x2100] : List Input).head? ≠ some .reset := ⟨(ready_idle _).1, rfl, by decide⟩

theorem witness_InitFailsAtFirstErr :
    Idle (idleWith [errReply 0]) ∧ ([] : List Word).length ≤ 3 ∧
    (idleWith [errReply 0]).inputs = ([] : List Word).map okReply ++ errReply 0 :: [] := ⟨(idle_idle _).1, by decide, rfl⟩

theorem witness_InitFailsAtFirstErr_last :
    Idle (readyWith [okReply 0, okReply 0, okReply 0, errReply 0]) ∧ ([0, 0, 0] : List Word).length ≤ 3 ∧
    (readyWith [okReply 0, okReply 0, okReply 0, errReply 0]).inputs =
      ([0, 0, 0] : List Word).map okReply ++ errReply 0 :: [] := ⟨(ready_idle _).1, by decide, rfl⟩

theorem witness_ConfigWritesOnce :
    Idle (readyWith [okReply 0]) ∧ (readyWith [okReply 0]).phase = .configured ∧
    (readyWith [okReply 0]).inputs = okReply 0 :: [] ∧ Idle (readyWith [errReply 0]) ∧
    (readyWith [errReply 0]).inputs = errReply 0 :: [] := ⟨⟨rfl, rfl⟩, rfl, rfl, ⟨rfl, rfl⟩, rfl⟩

theorem witness_RdtempsReadsFrame_one :
    Idle (readyWith [okReply 0x0FB0]) ∧ (readyWith [okReply 0x0FB0]).phase = .configured ∧
    1 ≤ (1 : Byte).toNat ∧ (1 : Byte).toNat ≤ 64 ∧ ([0x0FB0] : List Word).length = (1 : Byte).toNat ∧
    (∀ w ∈ ([0x0FB0] : List Word), accepted w = true) ∧
    (readyWith [okReply 0x0FB0]).inputs = ([0x0FB0] : List Word).map okReply ++ [] ∧
    ([] : List Input).head? ≠ some .reset :=
  ⟨⟨rfl, rfl⟩, rfl, by decide, by decide, by decide, List.all_eq_true.mp (by decide), rfl, by decide⟩

theorem witness_RdtempsReadsFrame_full :
    Idle (readyWith ((List.replicate 64 0x0064).map okReply)) ∧
    1 ≤ (64 : Byte).toNat ∧ (64 : Byte).toNat ≤ 64 ∧ (List.replicate 64 (0x0064 : Word)).length = (64 : Byte).toNat ∧
    (∀ w ∈ List.replicate 64 (0x0064 : Word), accepted w = true) ∧
    (readyWith ((List.replicate 64 0x0064).map okReply)).inputs = (List.replicate 64 0x0064).map okReply ++ [] :=
  ⟨⟨rfl, rfl⟩, by decide, by decide, by decide, List.all_eq_true.mp (by decide), rfl⟩

theorem witness_RdtempsAbortsOnRange_first :
    Idle (readyWith [okReply 0x0FAF]) ∧ (readyWith [okReply 0x0FAF]).phase = .configured ∧
    (1 : Byte).toNat ≤ 64 ∧ ([] : List Word).length < (1 : Byte).toNat ∧ (∀ w ∈ ([] : List Word), accepted w = true) ∧
    accepted 0x0FAF = false ∧ (readyWith [okReply 0x0FAF]).inputs = ([] : List Word).map okReply ++ okReply 0x0FAF :: [] :=
  ⟨⟨rfl, rfl⟩, rfl, by decide, by decide, List.all_eq_true.mp (by decide), by decide, rfl⟩

theorem witness_RdtempsAbortsOnRange_last :
    Idle (readyWith ((List.replicate 63 0x0064).map okReply ++ [okReply 0x0191])) ∧
    (64 : Byte).toNat ≤ 64 ∧ (List.replicate 63 (0x0064 : Word)).length < (64 : Byte).toNat ∧
    (∀ w ∈ List.replicate 63 (0x0064 : Word), accepted w = true) ∧ accepted 0x0191 = false :=
  ⟨⟨rfl, rfl⟩, by decide, by decide, List.all_eq_true.mp (by decide), by decide⟩

theorem witness_RdtempsAbortsOnErr_first :
    Idle (readyWith [errReply 0]) ∧ (readyWith [errReply 0]).phase = .configured ∧
    (64 : Byte).toNat ≤ 64 ∧ ([] : List Word).length < (64 : Byte).toNat ∧ (∀ x ∈ ([] : List Word), accepted x = true) ∧
    (readyWith [errReply 0]).inputs = ([] : List Word).map okReply ++ errReply 0 :: [] :=
  ⟨⟨rfl, rfl⟩, rfl, by decide, by decide, List.all_eq_true.mp (by decide), rfl⟩

theorem witness_RdtempsAbortsOnErr_last :
    Idle (readyWith [okReply 0x0064, errReply 0]) ∧ (2 : Byte).toNat ≤ 64 ∧ ([0x0064] : List Word).length < (2 : Byte).toNat ∧
    (∀ x ∈ ([0x0064] : List Word), accepted x = true) ∧
    (readyWith [okReply 0x0064, errReply 0]).inputs = ([0x0064] : List Word).map okReply ++ errReply 0 :: [] :=
  ⟨⟨rfl, rfl⟩, by decide, by decide, List.all_eq_true.mp (by decide), rfl⟩

theorem witness_BadCountTouchesNothing :
    (readyWith []).busy = false ∧ (readyWith []).phase = .configured ∧
    ((0 : Byte).toNat = 0 ∨ 64 < (0 : Byte).toNat) ∧ ((65 : Byte).toNat = 0 ∨ 64 < (65 : Byte).toNat) ∧
    ((255 : Byte).toNat = 0 ∨ 64 < (255 : Byte).toNat) := by decide

theorem witness_RdthermReadsOnce :
    Idle (readyWith [okReply 0xFFFF]) ∧ (readyWith [okReply 0xFFFF]).phase = .configured ∧
    (readyWith [okReply 0xFFFF]).inputs = okReply 0xFFFF :: [] ∧
    (readyWith [errReply 0]).inputs = errReply 0 :: [] := ⟨⟨rfl, rfl⟩, rfl, rfl, rfl⟩

theorem witness_NoHandleTouchesNothing :
    isInit (.rdtemps 0) = false ∧ isInit .rdtherm = false ∧ (idleWith []).busy = false ∧
    (idleWith []).phase = .uninit := by decide

theorem witness_AcceptanceOrder :
    (idleWith [.command 0x2101]).busy = false ∧ (idleWith [.command 0x2101]).inputs = .command 0x2101 :: [] ∧
    wordWellFormed 0x2101 = false ∧
    (wordWellFormed 0x2000 = true ∧ opField 0x2000 ≠ 0x01 ∧ (idleWith [.command 0x2000]).phase = .uninit) ∧
    (opField 0x2000 = 0x20 ∧ (readyWith [.command 0x2000]).phase = .configured ∧
      ((argField 0x2000).toNat = 0 ∨ 64 < (argField 0x2000).toNat)) ∧
    (opField 0x2041 = 0x20 ∧ ((argField 0x2041).toNat = 0 ∨ 64 < (argField 0x2041).toNat)) := by decide

theorem witness_InitFrame :
    (idleWith [okReply 0]).pending = none ∧
    ∃ t, exec (.init 0x69) (idleWith [okReply 0]) = .next t ∧ t.step = 1 := ⟨rfl, next_of_after (by decide)⟩

theorem witness_ConfigFrames :
    (readyWith [okReply 0]).pending = none ∧
    ∃ t, exec (.clrstat 0x06) (readyWith [okReply 0]) = .next t ∧ t.step = 1 := ⟨rfl, next_of_after (by decide)⟩

theorem witness_RdtempsFrame :
    (readyWith [okReply 0x0064]).pending = none ∧
    ∃ t, exec (.rdtemps 2) (readyWith [okReply 0x0064]) = .next t ∧ t.step = 1 := ⟨rfl, next_of_after (by decide)⟩

theorem witness_RdthermFrame :
    (readyWith [okReply 0x0064]).pending = none ∧
    ∃ t, exec .rdtherm (readyWith [okReply 0x0064]) = .next t ∧ t.step = 1 := ⟨rfl, next_of_after (by decide)⟩

theorem witness_ReturnedPixelsInWindow :
    ∃ t, exec (.rdtemps 1) (readyWith [okReply 0x0190]) = .next t ∧ t.busy = false := next_of_after (by decide)

theorem witness_ReturnedPixelsInWindow_later :
    BlockInv (scanningWith [okReply 0x0190]) ∧ (scanningWith [okReply 0x0190]).busy = true ∧
    (scanningWith [okReply 0x0190]).op = 0x20 ∧ (scanningWith [okReply 0x0190]).inputs.head? ≠ some .reset ∧
    ∃ t, step (scanningWith [okReply 0x0190]) = .next t ∧ t.busy = false :=
  ⟨scanning_inv _, rfl, rfl, by decide, next_of_after (by decide)⟩

theorem witness_StepRunsDecodedCommand :
    (readyWith [.command 0x2100, okReply 0]).inputs = .command 0x2100 :: [okReply 0] ∧ decode 0x2100 = .ok .rdtherm :=
  ⟨rfl, by decide⟩

theorem witness_PresentedWordRuns :
    decodeTableWord 16 0x0100 = some (.init 0) ∧ decodeTableWord 16 0x2100 = some .rdtherm := by decide

theorem witness_BusyTakesNoCommand :
    (waitingWith []).busy = true ∧ (waitingWith [.command 0x0000]).inputs = .command 0x0000 :: [] := ⟨rfl, rfl⟩

theorem witness_UnansweredRequestHangs :
    BlockInv (waitingWith []) ∧ (waitingWith []).busy = true ∧ (waitingWith []).pending.isSome = true ∧
    (waitingWith []).inputs = [] ∧ (∀ e ∈ [Input.delay, .staleReply ⟨false, 0⟩], isQuiet e = true) ∧
    [Input.delay, .staleReply ⟨false, 0⟩] ≠ [] ∧ isCommand (.command 0x2100) = true :=
  ⟨waiting_inv _, rfl, rfl, rfl, by decide, by decide, rfl⟩

theorem witness_CommandIssuesAndWaits :
    Idle (readyWith []) ∧ (readyWith []).inputs = [] ∧ (readyWith []).phase = .configured ∧
    (∀ count, Instr.rdtemps 1 = .rdtemps count → countLegal count = true) ∧
    (∀ count, Instr.rdtemps 64 = .rdtemps count → countLegal count = true) :=
  ⟨⟨rfl, rfl⟩, rfl, rfl, fun _ h => by cases h; decide, fun _ h => by cases h; decide⟩

theorem witness_CommandIssuesAndWaits_init :
    Idle (idleWith []) ∧ (idleWith []).inputs = [] ∧ isInit (.init 0x68) = true ∧
    (∀ count, Instr.init 0x68 = .rdtemps count → countLegal count = true) :=
  ⟨⟨rfl, rfl⟩, rfl, rfl, fun _ h => by cases h⟩

theorem witness_ResetEvent :
    (waitingWith [.reset]).inputs = .reset :: [] ∧ (waitingWith []).pending = some (readWord 0x69 0x0E) ∧
    (idleWith [.reset]).pending = none ∧ (idleWith [.staleReply ⟨false, 0⟩]).busy = false ∧
    (idleWith [.staleReply ⟨false, 0⟩]).inputs = .staleReply ⟨false, 0⟩ :: [] := ⟨rfl, rfl, rfl, rfl, rfl⟩

theorem witness_ResetEvent_stale (rest : List Input) :
    BlockInv (waitingWith (.staleReply ⟨false, 0⟩ :: rest)) ∧ (waitingWith []).busy = true ∧
    (waitingWith []).pending.isSome = true := ⟨waiting_inv _, rfl, rfl⟩

theorem witness_ResetEvent_stale_rest :
    ([.reset] : List Input).head? = some .reset ∧ ([.command 0x2100] : List Input).head? = some (.command 0x2100) ∧
    (([] : List Input).head? ≠ some .reset ∧ ∀ w, ([] : List Input).head? ≠ some (.command w)) ∧
    (([.delay] : List Input).head? ≠ some .reset ∧ ∀ w, ([.delay] : List Input).head? ≠ some (.command w)) :=
  ⟨rfl, rfl, ⟨by decide, fun _ h => by cases h⟩, ⟨by decide, fun _ h => by cases h⟩⟩

theorem witness_StepKeepsInv :
    BlockInv (scanningWith [okReply 0x0190]) ∧
    ∃ t, step (scanningWith [okReply 0x0190]) = .next t ∧ t.busy = false := ⟨scanning_inv _, next_of_after (by decide)⟩

theorem witness_SmallStepKeepsInv :
    BlockInv (scanningWith [okReply 0x0190]) ∧
    ∃ t, smallStep (scanningWith [okReply 0x0190]) = .next t ∧ t.step = 2 :=
  ⟨scanning_inv _, next_of_after (by decide)⟩

theorem witness_StepNeverFaults :
    BlockInv (waitingWith [.command 0x2100]) ∧ BlockInv (idleWith [okReply 0]) ∧ BlockInv (idleWith []) :=
  ⟨waiting_inv _, idle_inv _, idle_inv _⟩

theorem witness_StepIsSmallSteps :
    ∃ t, step (idleWith [.command 0x0169, okReply 0, okReply 0, okReply 0, okReply 0]) = .next t ∧ t.step = 4 :=
  next_of_after (by decide)

theorem witness_LateAnswersMakeNoDifference :
    Idle (readyWith [okReply 0x0064]) ∧
    (readyWith [okReply 0x0064]).inputs = ([⟨false, 0x0064⟩] : List Reply).map .reply ∧
    ∃ t, exec (.rdtemps 2) (readyWith [okReply 0x0064]) = .next t ∧ t.busy = true :=
  ⟨⟨rfl, rfl⟩, rfl, next_of_after (by decide)⟩

theorem witness_AnsweredCommandsEnd :
    Idle (readyWith ((List.replicate 64 ⟨false, 0x0064⟩).map .reply)) ∧
    (readyWith ((List.replicate 64 ⟨false, 0x0064⟩).map .reply)).inputs =
      (List.replicate 64 (Reply.mk false 0x0064)).map .reply ∧
    64 ≤ (List.replicate 64 (Reply.mk false 0x0064)).length := ⟨⟨rfl, rfl⟩, rfl, by decide⟩

theorem witness_AnsweredCommandsEnd_run :
    ({ readyWith [] with commands := [0x2001] } : State).commands.length =
      ({ readyWith [] with commands := [0x2001] } : State).responses.length + 1 := rfl

theorem witness_OnlyInitAndResetChangeHandle :
    initOrReset (scanningWith [okReply 0x0190]) = false ∧
    ∃ t, step (scanningWith [okReply 0x0190]) = .next t ∧ t.step = 2 := ⟨by decide, next_of_after (by decide)⟩

theorem witness_LogsOnlyGrow :
    ∃ t, step (waitingWith [errReply 0]) = .next t ∧ t.draws = 1 := next_of_after (by decide)

theorem witness_BusRegistersExactly_index : 0 < 64 ∧ 63 < 64 := by decide

theorem witness_BusRegistersExactly :
    (0x05 : Byte) ∈ busRegisters ∧ (0xFE : Byte) ∈ busRegisters ∧
    ∃ t, Host.Core.run core 1 { State.reset with inputs := [.command 0x0169] } = .next t ∧
      t.trace = [writeByte 0x69 0x00 0x00] :=
  ⟨by decide, by decide, next_of_after (o := Host.Core.run core 1 { State.reset with inputs := [.command 0x0169] }) (by decide)⟩

theorem witness_UnansweredRunHasNotEnded :
    BlockInv (waitingWith [.reset]) ∧ (waitingWith [.reset]).pending.isSome = true ∧
    ∃ t, step (waitingWith [.reset]) = .next t ∧ abandoned t = 1 := ⟨waiting_inv _, rfl, next_of_after (by decide)⟩

/-- Two different states that look the same: idle with no handle, every dead register different. -/
theorem witness_DeadRegistersAreInvisible :
    SameOutside (idleWith [.command 0x2100])
      { idleWith [.command 0x2100] with
        devAddr := 0x69, op := 0x20, arg := 0x40, step := 5, raw := 0x0191, mag := 401
        acc := Vector.replicate 64 0x0064 } where
  phase := rfl
  devAddr h := by rcases h with h | h <;> cases h
  busy := rfl
  pending := rfl
  inputs := rfl
  commands := rfl
  trace := rfl
  delivered := rfl
  responses := rfl
  draws := rfl
  op h := by cases h
  arg h := by cases h
  step h := by cases h
  acc h := by cases h

/-- The same in a scan: the entries of `ACC` it has not stored differ. -/
theorem witness_DeadRegistersAreInvisible_scan :
    SameOutside (scanningWith [okReply 0x0064])
      { scanningWith [okReply 0x0064] with
        raw := 0, mag := 0
        acc := (Vector.replicate 64 0x0064).set 0 0xFFB0 } where
  phase := rfl
  devAddr _ := rfl
  busy := rfl
  pending := rfl
  inputs := rfl
  commands := rfl
  trace := rfl
  delivered := rfl
  responses := rfl
  draws := rfl
  op _ := rfl
  arg _ := rfl
  step _ := rfl
  acc _ _ := rfl

end Sys2Proof.Tests
end

section
/-! The big-step form is reached by small steps (`00_scope.md` R10): one equation per kind of small step, then an induction
over the events that `drive` consumes. -/

namespace Sys2Proof.Machine

/-- Some number of small steps from `s` gives `t`. -/
def SmallReaches (s t : State) : Prop := ∃ n, smallRun n s = .next t

namespace SmallReaches
variable {s t u : State}

theorem refl (s : State) : SmallReaches s s := ⟨0, rfl⟩

theorem head (hs : smallStep s = .next u) : SmallReaches u t → SmallReaches s t :=
  fun ⟨n, hn⟩ => ⟨n + 1, by simpa [smallRun, hs] using hn⟩

theorem single (hs : smallStep s = .next t) : SmallReaches s t := head hs (refl t)

end SmallReaches

section SmallStep
variable {q : Sequence} {s : State} {rest : List Input}

theorem smallStep_reset (hi : s.inputs = .reset :: rest) : smallStep s = .next (hardReset (setInputs rest s)) := by
  simp [smallStep, hi]

/-- An idle block meets its next event; for a reset the two forms of that rule agree. -/
theorem smallStep_idle (hb : s.busy = false) : smallStep s = smallIdle s := by
  unfold smallStep
  split
  · rename_i hi
    simp [smallIdle, hi]
  · simp [hb]

theorem smallStep_busy (hb : s.busy = true) (hn : ∀ rest, s.inputs ≠ .reset :: rest) : smallStep s = smallBusy s := by
  unfold smallStep
  split
  · exact absurd ‹_› (hn _)
  · simp [hb]

/-- *Issue* or *Finish*, where one of them is enabled. -/
theorem smallBusy_settle (hq : sequenceOf s.op = some q) (hp : s.pending = none) (hs : stuck q s = false) :
    smallBusy s = .next (settle q s) := by
  simp [smallBusy, hq, hp, hs]

theorem smallBusy_waiting (hq : sequenceOf s.op = some q) (hp : s.pending.isSome = true) :
    smallBusy s = smallAnswer q s := by
  obtain ⟨r, hr⟩ := Option.isSome_iff_exists.mp hp
  simp [smallBusy, stuck, hq, hr]

/-- A waiting block meets its next event. -/
theorem smallStep_waiting (hq : sequenceOf s.op = some q) (hn : ∀ rest, s.inputs ≠ .reset :: rest)
    (hw : (s.busy && s.pending.isSome) = true) : smallStep s = smallAnswer q s := by
  obtain ⟨hb, hp⟩ := Bool.and_eq_true_iff.mp hw
  rw [smallStep_busy hb hn, smallBusy_waiting hq hp]

end SmallStep

section Carry
variable {q : Sequence} {s t u : State}

/-- Settling changes nothing or is one small step, so what is reached after it is reached before it. A state in which no
rule acts is settled already, so the fault `smallStep` raises in it is never met. -/
theorem SmallReaches.of_settle (hq : sequenceOf s.op = some q) (hn : ∀ rest, s.inputs ≠ .reset :: rest)
    (h : SmallReaches (settle q s) t) : SmallReaches s t := by
  rcases settle_cases q s with ⟨e, _⟩ | ⟨r, hb, hp, hr, _⟩ | ⟨hb, hp, _, hd, _⟩
  · rwa [e] at h
  · exact .head ((smallStep_busy hb hn).trans (smallBusy_settle hq hp (by simp [stuck, hr]))) h
  · exact .head ((smallStep_busy hb hn).trans (smallBusy_settle hq hp (by simp [stuck, hd]))) h

/-- One round of `drive` at an event a waiting block takes: settle, and go on past the event only if the block then waits. -/
theorem SmallReaches.of_settle_event (hq : sequenceOf s.op = some q) (hn : ∀ rest, s.inputs ≠ .reset :: rest)
    (ha : smallAnswer q (settle q s) = .next u) (hu : SmallReaches u t) :
    SmallReaches s (if (settle q s).busy && (settle q s).pending.isSome then t else settle q s) := by
  refine .of_settle hq hn ?_
  split
  · rename_i hw
    exact .head ((smallStep_waiting (by rwa [settle_op hq]) (by rwa [settle_inputs hq]) hw).trans ha) hu
  · exact .refl _

/-- Carrying a command on through the events is a run of small steps. -/
theorem smallReaches_drive : ∀ (ins : List Input) {s : State}, sequenceOf s.op = some q →
    SmallReaches (setInputs ins s) (drive q ins s) := by
  intro ins
  induction ins with
  | nil => exact fun hq => .of_settle hq (by simp) (.refl _)
  | cons i rest ih =>
    intro s hq
    have hsettled : sequenceOf (settle q (setInputs (i :: rest) s)).op = some q := by
      rwa [settle_op (s := setInputs (i :: rest) s) hq]
    have hinputs : (settle q (setInputs (i :: rest) s)).inputs = i :: rest :=
      settle_inputs (s := setInputs (i :: rest) s) hq
    cases i with
    | reset => exact .refl _
    | command w => exact .of_settle hq (by simp) (.refl _)
    | reply a =>
      refine .of_settle_event hq (by simp) (by rw [smallAnswer, hinputs]) ?_
      rw [answer_setInputs hsettled]
      exact ih (by rwa [answer_op hsettled])
    | staleReply a => exact .of_settle_event hq (by simp) (by rw [smallAnswer, hinputs]) (ih hsettled)
    | delay => exact .of_settle_event hq (by simp) (by rw [smallAnswer, hinputs]) (ih hsettled)

theorem smallReaches_carryOut (hq : sequenceOf s.op = some q) : SmallReaches s (carryOut q s) :=
  smallReaches_drive s.inputs hq

/-- Everything resuming a command can do, where it answers with a next state. -/
theorem resume_eq_next (h : resume s = .next t) : ∃ q, sequenceOf s.op = some q ∧ t = carryOut q s := by
  unfold resume at h
  split at h
  · cases h
  · rename_i q hq
    split at h
    · cases h
    · exact ⟨q, hq, (Host.Outcome.next.inj h).symm⟩

theorem smallReaches_resume (h : resume s = .next t) : SmallReaches s t := by
  obtain ⟨q, hq, rfl⟩ := resume_eq_next h
  exact smallReaches_carryOut hq

/-- Once accepted, a command is carried out by small steps; one answered at acceptance is over already. -/
theorem smallReaches_accepted (i : Instr) (hb : s.busy = false) :
    SmallReaches (accept i s) (carryOut (sequenceFor i) (accept i s)) := by
  cases ha : (accept i s).busy with
  | true => exact smallReaches_carryOut (accept_sequence i s hb ha)
  | false =>
    rw [carryOut_idle _ ha]
    exact .refl _

/-- A word taken from the port finds the block idle, and what it does is the command's acceptance and then small steps. -/
theorem smallReaches_takeCommand {w : Word} (h : takeCommand w s = .next t) :
    s.busy = false ∧ SmallReaches (acceptWord w s) t := by
  unfold takeCommand at h
  unfold acceptWord
  cases hd : decode w with
  | ok i =>
    rw [hd] at h
    obtain ⟨hb, rfl⟩ := exec_eq_next.mp h
    exact ⟨hb, smallReaches_accepted i hb⟩
  | error e =>
    rw [hd] at h
    obtain ⟨hb, rfl⟩ := whenIdle_eq_next.mp h
    exact ⟨hb, .refl _⟩

/-- Where a busy block resumes its command and an idle one does as `smallIdle` says, the big step is a run of small steps. -/
theorem smallReaches_resume_or_idle {idle : Host.Outcome State Fault Refusal}
    (hi : s.busy = false → smallIdle s = idle) (h : (if s.busy then resume s else idle) = .next t) :
    SmallReaches s t := by
  cases hb : s.busy with
  | true => exact smallReaches_resume (by simpa [hb] using h)
  | false => exact .single (by rw [smallStep_idle hb, hi hb]; simpa [hb] using h)

/-- Every big step that answers next is a run of small steps: one case per next event. -/
theorem smallReaches_of_step (h : step s = .next t) : SmallReaches s t := by
  unfold step nextEvent at h
  split at h
  case h_1 hi => exact smallReaches_resume_or_idle (fun _ => by rw [smallIdle, hi]) h
  case h_2 w rest hi =>
    obtain ⟨hb, ht⟩ := smallReaches_takeCommand h
    exact .head ((smallStep_idle (s := s) hb).trans (by rw [smallIdle, hi])) ht
  case h_3 a rest hi => exact smallReaches_resume_or_idle (fun _ => by rw [smallIdle, hi]) h
  case h_4 a rest hi => exact smallReaches_resume_or_idle (fun _ => by rw [smallIdle, hi]) h
  case h_5 rest hi => exact smallReaches_resume_or_idle (fun _ => by rw [smallIdle, hi]) h
  case h_6 rest hi => exact .single ((smallStep_reset hi).trans h)

end Carry

/-- Settles O49: by induction over the events a command is carried through, each settling, answer or passed event one small
step; a state that `smallStep` faults in is one where `drive` stops too. -/
theorem stepIsSmallSteps : Obligations.StepIsSmallSteps := by
  unfold Obligations.StepIsSmallSteps
  exact fun _ _ => smallReaches_of_step

end Sys2Proof.Machine
end

section
/-! What every small step keeps (`10_state.md` R36): one lemma per shared operation that the invariant outlives, then one
per command's own *Answer Ok* and *Finish*. The big step keeps it because it is a run of small steps. -/

namespace Sys2Proof.Machine

section SmallStepCases
variable {s t : State}

/-- Everything a small step can do, where it answers with a next state. -/
theorem smallStep_cases (h : smallStep s = .next t) :
    (∃ rest, t = hardReset (setInputs rest s)) ∨ (∃ ins, t = setInputs ins s) ∨
    (s.busy = false ∧ ∃ w rest, t = acceptWord w (setInputs rest s)) ∨
    (s.busy = true ∧ ∃ q, sequenceOf s.op = some q ∧
      (t = settle q s ∨ ∃ a rest, t = answer q a (setInputs rest s))) := by
  by_cases hr : ∃ rest, s.inputs = .reset :: rest
  · obtain ⟨rest, hi⟩ := hr
    rw [smallStep_reset hi] at h
    exact .inl ⟨rest, (Host.Outcome.next.inj h).symm⟩
  cases hb : s.busy with
  | false =>
    rw [smallStep_idle hb, smallIdle] at h
    split at h <;> cases h
    · exact .inr (.inl ⟨_, (setInputs_self s).symm⟩)
    · exact .inr (.inr (.inl ⟨rfl, _, _, rfl⟩))
    · exact .inr (.inl ⟨_, rfl⟩)
    · exact .inr (.inl ⟨_, rfl⟩)
    · exact .inl ⟨_, rfl⟩
  | true =>
    rw [smallStep_busy hb (fun rest hi => hr ⟨rest, hi⟩), smallBusy] at h
    split at h
    · cases h
    next q hq =>
      split at h
      · cases h
      split at h
      · cases h
        exact .inr (.inr (.inr ⟨rfl, q, hq, .inl rfl⟩))
      rw [smallAnswer] at h
      split at h <;> cases h
      · exact .inr (.inl ⟨_, (setInputs_self s).symm⟩)
      · exact .inr (.inr (.inr ⟨rfl, q, hq, .inr ⟨_, _, rfl⟩⟩))
      · exact .inr (.inl ⟨_, rfl⟩)
      · exact .inr (.inl ⟨_, rfl⟩)
      · exact .inl ⟨_, rfl⟩

/-- Everything acceptance can do with a command, by the phase it finds and nothing else of the state. -/
theorem accept_forms (i : Instr) :
    (∃ addr, i = .init addr) ∨
    ((∀ s, s.phase = .uninit → accept i s = respond .notConf [] s) ∧
      ((∀ s, s.phase = .configured → accept i s = respond .badCount [] s) ∨
        ∃ op arg, op ≠ 0x01 ∧ ∀ s, s.phase = .configured →
          accept i s = latch op arg s ∧ commandInFlight (latch op arg s) = true)) := by
  have config : ∀ op v : Byte, (op = 0x10 ∨ op = 0x11 ∨ op = 0x12 ∨ op = 0x13 ∨ op = 0x15) → ∀ s : State,
      s.phase = .configured → acceptConfig op v s = latch op v s ∧ commandInFlight (latch op v s) = true :=
    fun op v ho s hp => ⟨whenConfigured_configured hp, (commandInFlight_iff _).mpr (.inr (.inl ⟨ho, hp, rfl⟩))⟩
  cases i with
  | init addr => exact .inl ⟨addr, rfl⟩
  | setmode v => exact .inr ⟨fun s => whenConfigured_uninit, .inr ⟨0x10, v, by decide, config _ v (by decide)⟩⟩
  | trigrst v => exact .inr ⟨fun s => whenConfigured_uninit, .inr ⟨0x11, v, by decide, config _ v (by decide)⟩⟩
  | setrate v => exact .inr ⟨fun s => whenConfigured_uninit, .inr ⟨0x12, v, by decide, config _ v (by decide)⟩⟩
  | setint v => exact .inr ⟨fun s => whenConfigured_uninit, .inr ⟨0x13, v, by decide, config _ v (by decide)⟩⟩
  | clrstat v => exact .inr ⟨fun s => whenConfigured_uninit, .inr ⟨0x15, v, by decide, config _ v (by decide)⟩⟩
  | rdtemps count =>
    refine .inr ⟨fun s => whenConfigured_uninit, ?_⟩
    cases hc : countLegal count with
    | false =>
      refine .inl fun s hp => ?_
      rw [accept, acceptRdtemps, whenConfigured_configured hp, hc, if_neg Bool.false_ne_true]
    | true =>
      refine .inr ⟨0x20, count, by decide, fun s hp => ⟨?_, ?_⟩⟩
      · rw [accept, acceptRdtemps, whenConfigured_configured hp, hc, if_pos rfl]
      · obtain ⟨hmin, hmax⟩ := (countLegal_iff count).mp hc
        exact (commandInFlight_iff _).mpr (.inr (.inr (.inl ⟨rfl, hp, hmin, hmax, Nat.zero_le _⟩)))
  | rdtherm =>
    exact .inr ⟨fun s => whenConfigured_uninit, .inr ⟨0x21, 0, by decide, fun s hp =>
      ⟨whenConfigured_configured hp, (commandInFlight_iff _).mpr (.inr (.inr (.inr ⟨rfl, rfl, hp, rfl⟩)))⟩⟩⟩

end SmallStepCases

section Words

/-- The word of an accepted sample lies in the window. -/
theorem inWindow_outWord {m : Int} (h : violates m = false) : inWindow (outWord m) = true := by
  obtain ⟨hmin, hmax⟩ := violates_eq_false.mp h
  simp only [inWindow, outWord_toInt (by omega : -32768 ≤ m) (by omega), Bool.and_eq_true, decide_eq_true_eq]
  exact ⟨hmin, hmax⟩

/-- The pixel window lies within the thermistor range. -/
theorem inThermRange_of_inWindow {w : Word} (h : inWindow w = true) : inThermRange w = true := by
  simp only [inWindow, inThermRange, Bool.and_eq_true, decide_eq_true_eq] at *
  omega

/-- Every thermistor word lies in the thermistor range. -/
theorem inThermRange_thWord (w : Word) : inThermRange (outWord (thMag w)) = true := by
  have hm : -2047 ≤ thMag w ∧ thMag w ≤ 2047 := by
    rw [thMag_eq]
    split <;> omega
  simp only [inThermRange, outWord_toInt (by omega : -32768 ≤ thMag w) (by omega), Bool.and_eq_true, decide_eq_true_eq]
  exact hm

/-- The first `n + 1` entries of the accumulator after entry `n` is stored: those before it, and the stored word. An entry
outside the accumulator is not stored. -/
theorem accPrefix_succ_writeAcc (n : Nat) (w : Word) (s : State) :
    accPrefix (n + 1) (writeAcc n w s) = if n < 64 then accPrefix n s ++ [w] else accPrefix n s := by
  have hl : s.acc.toList.length = 64 := Vector.length_toList
  simp only [accPrefix, writeAcc_acc, Vector.toList_setIfInBounds]
  split
  · rw [List.take_add_one, List.take_set, List.set_eq_of_length_le (by simp)]
    simp [*]
  · rw [List.set_eq_of_length_le (by omega), List.take_of_length_le (by omega), List.take_of_length_le (by omega)]

end Words

section Invariant
variable {s : State} {q : Sequence} {r : Request}

/-- The invariant of an idle block: only its handle, its logs and the commands owed a response are left to speak of. -/
theorem inv_of_idle (hb : s.busy = false) (hp : s.pending = none)
    (handle : s.phase = .configured → (initWrites s.devAddr).Sublist s.delivered)
    (trace : ∀ r ∈ s.trace, legalRequest r = true) (delivered : s.delivered.Sublist s.trace)
    (responses : ∀ r ∈ s.responses, legalResponse r = true) (owed : s.responses.length ≤ s.commands.length) :
    BlockInv s where
  idle_quiet _ := hp
  in_flight h := by simp [hb] at h
  pending_named r h := by simp [hp] at h
  acc_window h := by simp [hb] at h
  handle_built := handle
  handle_growing h := by simp [hb] at h
  trace_legal := trace
  delivered_sent := by simpa [hp] using delivered
  responses_legal := responses
  responses_owed := by simpa [hb] using owed

theorem reset_inv : BlockInv State.reset :=
  inv_of_idle rfl rfl nofun nofun (List.Sublist.refl _) nofun (Nat.le_refl _)

/-- What took effect was sent, whatever is outstanding. -/
theorem BlockInv.delivered_sublist (h : BlockInv s) : s.delivered.Sublist s.trace :=
  (List.sublist_append_left _ _).trans h.delivered_sent

theorem setInputs_keeps_inv (h : BlockInv s) (ins : List Input) : BlockInv (setInputs ins s) :=
  { h with pending_named := fun r hp => (nextRequest_setInputs ins s).trans (h.pending_named r hp) }

theorem recordCommand_keeps_inv (h : BlockInv s) (w : Word) : BlockInv (recordCommand w s) :=
  { h with
    pending_named := fun r hp => (nextRequest_recordCommand w s).trans (h.pending_named r hp)
    responses_owed := by
      have := h.responses_owed
      simp
      omega }

/-- What a draw adds to the delivered requests is at most the one request it is about. -/
theorem drawDelivery_delivered_cases (r : Request) (s : State) :
    (drawDelivery r s).delivered = s.delivered ∨ (drawDelivery r s).delivered = s.delivered ++ [r] := by
  rw [drawDelivery_delivered]
  split
  · exact .inr rfl
  · exact .inl rfl

theorem hardReset_keeps_inv (h : BlockInv s) : BlockInv (hardReset s) := by
  have owed : s.responses.length ≤ s.commands.length := (Nat.le_add_right _ _).trans h.responses_owed
  cases hp : s.pending with
  | none =>
    rw [hardReset, hp]
    exact inv_of_idle rfl rfl nofun h.trace_legal h.delivered_sublist h.responses_legal owed
  | some r =>
    have sent := h.delivered_sent
    rw [hp] at sent
    have drawn : (drawDelivery r s).delivered.Sublist s.trace := by
      rcases drawDelivery_delivered_cases r s with e | e <;> rw [e]
      · exact h.delivered_sublist
      · exact sent
    rw [hardReset, hp]
    exact inv_of_idle rfl rfl nofun h.trace_legal drawn h.responses_legal owed

/-- A command that ends with a legal response leaves the invariant, whatever its registers are left at. -/
theorem respond_keeps_inv {st : Status} {data : List Word} (h : BlockInv s) (hp : s.pending = none)
    (owed : s.responses.length < s.commands.length) (legal : legalResponse { status := st, data := data } = true)
    (step : BitVec 7 := s.step) (acc : Vector Word 64 := s.acc) (raw : Word := s.raw) (mag : BitVec 17 := s.mag) :
    BlockInv { respond st data s with step := step, acc := acc, raw := raw, mag := mag } := by
  refine inv_of_idle rfl hp h.handle_built h.trace_legal h.delivered_sublist ?_ (by simpa using owed)
  intro r hr
  rcases List.mem_append.mp hr with hr | hr
  · exact h.responses_legal r hr
  · rwa [List.mem_singleton.mp hr]

end Invariant

section Accept
variable {s : State}

/-- A legal command latched by an idle block is in progress, with nothing done yet. -/
theorem latch_keeps_inv {op arg : Byte} (h : BlockInv s) (hb : s.busy = false)
    (owed : s.responses.length < s.commands.length) (legal : commandInFlight (latch op arg s) = true) :
    BlockInv (latch op arg s) :=
  { h with
    idle_quiet := nofun
    in_flight := fun _ => legal
    pending_named := fun r hp => by simp [h.idle_quiet hb] at hp
    acc_window := fun _ _ => nofun
    handle_growing := fun _ _ => List.nil_sublist _
    responses_owed := by simpa using owed }

/-- An idle block may lose its handle. -/
theorem dropHandle_keeps_inv (h : BlockInv s) (hb : s.busy = false) (addr : DevAddr) :
    BlockInv { s with phase := .uninit, devAddr := addr } :=
  inv_of_idle hb (h.idle_quiet hb) nofun h.trace_legal h.delivered_sublist h.responses_legal
    ((Nat.le_add_right _ _).trans h.responses_owed)

theorem accept_keeps_inv (i : Instr) (h : BlockInv s) (hb : s.busy = false)
    (owed : s.responses.length < s.commands.length) : BlockInv (accept i s) := by
  have hp := h.idle_quiet hb
  rcases accept_forms i with ⟨addr, rfl⟩ | ⟨noHandle, badCount | ⟨op, arg, _, latched⟩⟩
  · exact latch_keeps_inv (dropHandle_keeps_inv h hb addr) hb owed
      ((commandInFlight_iff _).mpr (.inl ⟨rfl, rfl, rfl, Nat.zero_le _⟩))
  all_goals
    cases hph : s.phase with
    | uninit =>
      rw [noHandle s hph]
      exact respond_keeps_inv h hp owed rfl
    | configured => ?_
  · rw [badCount s hph]
    exact respond_keeps_inv h hp owed rfl
  · obtain ⟨e, legal⟩ := latched s hph
    rw [e]
    exact latch_keeps_inv h hb owed legal

theorem acceptWord_keeps_inv (w : Word) (h : BlockInv s) (hb : s.busy = false) : BlockInv (acceptWord w s) := by
  have hr := recordCommand_keeps_inv h w
  have owed : (recordCommand w s).responses.length < (recordCommand w s).commands.length := by
    have := h.responses_owed
    simp
    omega
  rw [acceptWord]
  cases decode w with
  | ok i => exact accept_keeps_inv i hr hb owed
  | error e => exact respond_keeps_inv hr (h.idle_quiet hb) owed rfl

end Accept

section Progress
variable {s : State} {q : Sequence} {r : Request}

/-- The command in progress is owed its response. -/
theorem BlockInv.owed (h : BlockInv s) (hb : s.busy = true) : s.responses.length < s.commands.length := by
  have := h.responses_owed
  rw [hb] at this
  exact this

/-- What the invariant says of an `INIT` in progress. -/
theorem BlockInv.init_in_flight (h : BlockInv s) (hb : s.busy = true) (ho : s.op = 0x01) :
    s.phase = .uninit ∧ s.arg = addrArg s.devAddr ∧ s.step.toNat ≤ 4 := by
  simpa [ho] using (commandInFlight_iff s).mp (h.in_flight hb)

/-- What the invariant says of a scan in progress. -/
theorem BlockInv.scan_in_flight (h : BlockInv s) (hb : s.busy = true) (ho : s.op = 0x20) :
    s.phase = .configured ∧ 1 ≤ s.arg.toNat ∧ s.arg.toNat ≤ 64 ∧ s.step.toNat ≤ s.arg.toNat := by
  simpa [ho] using (commandInFlight_iff s).mp (h.in_flight hb)

theorem nextRequest_of_sequence (hq : sequenceOf s.op = some q) : nextRequest s = q.request s := by
  rw [nextRequest, hq]

/-- `INIT` issues the writes of the construction table in order. -/
theorem initRequest_eq (s : State) : initRequest s = (initWrites s.devAddr)[s.step.toNat]? := by
  rw [initRequest, initWrites, List.getElem?_map]
  cases initRom[s.step.toNat]? <;> rfl

theorem initRequest_eq_some (h : initRequest s = some r) : s.step.toNat < 4 := by
  rw [initRequest_eq] at h
  exact (List.getElem?_eq_some_iff.mp h).1

theorem scanRequest_eq_some (h : scanRequest s = some r) :
    s.step.toNat < s.arg.toNat ∧ r = readWord s.devAddr (pixelReg s.step.toNat) := by
  rw [scanRequest] at h
  split at h
  · exact ⟨‹_›, (Option.some.inj h).symm⟩
  · cases h

theorem initWrites_legal (dev : DevAddr) : ∀ r ∈ initWrites dev, legalRequest r = true := by
  simp only [initWrites, initRom, List.map, List.forall_mem_cons]
  exact ⟨rfl, rfl, rfl, rfl, nofun⟩

theorem configWrite_legal {op : Byte} (ho : op = 0x10 ∨ op = 0x11 ∨ op = 0x12 ∨ op = 0x13 ∨ op = 0x15)
    (dev : DevAddr) (v : Byte) : legalRequest (writeByte dev (configReg op) v) = true := by
  rcases ho with rfl | rfl | rfl | rfl | rfl <;> rfl

/-- A command issues requests of the form its rule gives. -/
theorem request_legal (h : BlockInv s) (hb : s.busy = true) (hq : sequenceOf s.op = some q)
    (hr : q.request s = some r) : legalRequest r = true := by
  rcases sequenceOf_cases hq with ⟨_, rfl⟩ | ⟨ho, rfl⟩ | ⟨ho, rfl⟩ | ⟨_, rfl⟩
  · refine initWrites_legal s.devAddr r (List.mem_of_getElem? (i := s.step.toNat) ?_)
    rw [← initRequest_eq]
    exact hr
  · simp only [configSequence, configRequest] at hr
    split at hr <;> cases hr
    exact configWrite_legal ho _ _
  · obtain ⟨_, _, hcount, _⟩ := h.scan_in_flight hb ho
    obtain ⟨hlt, rfl⟩ := scanRequest_eq_some hr
    exact legalRequest_pixel _ (by omega)
  · simp only [thermSequence, thermRequest] at hr
    split at hr <;> cases hr
    rfl

theorem send_keeps_inv (h : BlockInv s) (hb : s.busy = true)
    (hq : sequenceOf s.op = some q) (hr : q.request s = some r) : BlockInv (send r s) :=
  { h with
    idle_quiet := by simp [hb]
    pending_named := fun r' hp' => by
      obtain rfl := Option.some.inj hp'
      rw [nextRequest_send, nextRequest_of_sequence hq, hr]
    trace_legal := fun r' hr' => by
      rcases List.mem_append.mp hr' with hr' | hr'
      · exact h.trace_legal r' hr'
      · rw [List.mem_singleton.mp hr']
        exact request_legal h hb hq hr
    delivered_sent := h.delivered_sublist.append (List.Sublist.refl [r]) }

/-- The words of a scan are within the range of every response. -/
theorem scan_words_legal {words : List Word} (h : ∀ w ∈ words, inWindow w = true) :
    words.all inThermRange = true ∧ words.all inWindow = true :=
  ⟨List.all_eq_true.mpr fun w hw => inThermRange_of_inWindow (h w hw), List.all_eq_true.mpr h⟩

/-- `INIT` finishes with the handle its four writes built. -/
theorem initFinish_keeps_inv (h : BlockInv s) (hb : s.busy = true) (hp : s.pending = none) (ho : s.op = 0x01)
    (hd : s.step = 4) : BlockInv (respond .ok [] { s with phase := .configured }) := by
  have built := h.handle_growing hb ho
  rw [hd] at built
  exact { respond_keeps_inv (st := .ok) (data := []) h hp (h.owed hb) rfl with
    in_flight := nofun
    pending_named := fun r hp' => by simp [hp] at hp'
    handle_built := fun _ => built }

/-- A scan finishes with the words it stored. -/
theorem scanFinish_keeps_inv (h : BlockInv s) (hb : s.busy = true) (hp : s.pending = none) (ho : s.op = 0x20)
    (hd : s.step.toNat = s.arg.toNat) : BlockInv (respond .ok (accPrefix s.arg.toNat s) s) := by
  have window := h.acc_window hb ho
  rw [hd] at window
  obtain ⟨therm, pixel⟩ := scan_words_legal window
  exact respond_keeps_inv h hp (h.owed hb) (by simp [legalResponse, accPrefix_length_le, therm, pixel])

theorem settle_keeps_inv (h : BlockInv s) (hq : sequenceOf s.op = some q) : BlockInv (settle q s) := by
  rcases settle_cases q s with ⟨e, _⟩ | ⟨r, hb, hp, hr, e⟩ | ⟨hb, hp, _, hd, e⟩ <;> rw [e]
  · exact h
  · exact send_keeps_inv h hb hq hr
  · rcases sequenceOf_cases hq with ⟨ho, rfl⟩ | ⟨_, rfl⟩ | ⟨ho, rfl⟩ | ⟨_, rfl⟩
    · exact initFinish_keeps_inv h hb hp ho (eq_of_beq hd)
    · cases hd
    · exact scanFinish_keeps_inv h hb hp ho (eq_of_beq hd)
    · cases hd

/-- Closing the outstanding request leaves the command where it was. -/
theorem closeRequest_keeps_inv (h : BlockInv s) (hp : s.pending = some r) (ans : Reply) :
    BlockInv (closeRequest r ans s) := by
  have sent := h.delivered_sent
  rw [hp] at sent
  have grown : s.delivered.Sublist (closeRequest r ans s).delivered ∧
      (closeRequest r ans s).delivered.Sublist s.trace := by
    cases he : ans.err with
    | false =>
      rw [closeRequest_ok he]
      exact ⟨List.sublist_append_left _ _, sent⟩
    | true =>
      rw [closeRequest_err he]
      rcases drawDelivery_delivered_cases r { s with pending := none } with e | e <;> rw [e]
      · exact ⟨List.Sublist.refl _, h.delivered_sublist⟩
      · exact ⟨List.sublist_append_left _ _, sent⟩
  obtain ⟨kept, within⟩ := grown
  have hc : ∀ n, accPrefix n (closeRequest r ans s) = accPrefix n s := fun n => by simp [accPrefix]
  exact {
    idle_quiet := fun _ => by simp
    in_flight := fun hb => by
      simp only [commandInFlight_iff, closeRequest_op, closeRequest_phase, closeRequest_arg, closeRequest_devAddr,
        closeRequest_step]
      exact (commandInFlight_iff s).mp (h.in_flight (by simpa using hb))
    pending_named := fun r' hp' => by simp at hp'
    acc_window := by simpa [hc] using h.acc_window
    handle_built := fun hph => by
      rw [closeRequest_devAddr]
      exact (h.handle_built (by simpa using hph)).trans kept
    handle_growing := fun hb ho => by
      rw [closeRequest_devAddr, closeRequest_step]
      exact (h.handle_growing (by simpa using hb) (by simpa using ho)).trans kept
    trace_legal := by simpa using h.trace_legal
    delivered_sent := by simpa using within
    responses_legal := by simpa using h.responses_legal
    responses_owed := by simpa using h.responses_owed }

theorem step_succ {n : BitVec 7} (h : n.toNat < 127) : (n + 1).toNat = n.toNat + 1 := by
  rw [BitVec.toNat_add]
  exact Nat.mod_eq_of_lt (by simpa using Nat.succ_lt_succ h)

/-- An accepted write takes `INIT` to its next write. -/
theorem initAnswer_keeps_inv (h : BlockInv s) (hb : s.busy = true) (hp : s.pending = none) (ho : s.op = 0x01)
    (hlt : s.step.toNat < 4) (built : ((initWrites s.devAddr).take (s.step.toNat + 1)).Sublist s.delivered) :
    BlockInv { s with step := s.step + 1 } := by
  obtain ⟨hph, harg, _⟩ := h.init_in_flight hb ho
  have hs : (s.step + 1).toNat = s.step.toNat + 1 := step_succ (by omega)
  exact { h with
    in_flight := fun _ => (commandInFlight_iff _).mpr (.inl ⟨ho, hph, harg, by simp only [hs]; omega⟩)
    pending_named := fun r hp' => by simp [hp] at hp'
    acc_window := fun _ hx => by simp [ho] at hx
    handle_growing := fun _ _ => by simpa only [hs] using built }

/-- A sample in the window takes a scan to its next pixel, a sample outside it ends the scan with the words before it. -/
theorem scanAnswer_keeps_inv (w : Word) (h : BlockInv s) (hb : s.busy = true) (hp : s.pending = none)
    (ho : s.op = 0x20) (hlt : s.step.toNat < s.arg.toNat) : BlockInv (scanAnswer w s) := by
  obtain ⟨hph, hmin, hmax, _⟩ := h.scan_in_flight hb ho
  have window := h.acc_window hb ho
  cases hv : violates (pixMag w) with
  | true =>
    rw [scanAnswer_range hv]
    have short : (accPrefix s.step.toNat s).length ≤ 63 := by
      rw [accPrefix_length (by omega)]
      omega
    exact respond_keeps_inv h hp (h.owed hb) (by simp [legalResponse, short, scan_words_legal window])
      (raw := w) (mag := toMag (pixMag w))
  | false =>
    rw [scanAnswer_store hv]
    have hs : (s.step + 1).toNat = s.step.toNat + 1 := step_succ (by omega)
    exact { h with
      in_flight := fun _ => (commandInFlight_iff _).mpr
        (.inr (.inr (.inl ⟨ho, hph, hmin, hmax, by simp only [hs]; omega⟩)))
      pending_named := fun r hp' => by simp [hp] at hp'
      acc_window := fun _ _ => by
        change ∀ v ∈ accPrefix (s.step + 1).toNat (writeAcc s.step.toNat (outWord (pixMag w)) s), inWindow v = true
        rw [hs, accPrefix_succ_writeAcc, if_pos (by omega)]
        exact List.forall_mem_append.mpr ⟨window, List.forall_mem_singleton.mpr (inWindow_outWord hv)⟩
      handle_growing := fun _ hx => by simp [ho] at hx }

/-- The answer to the outstanding request. -/
theorem answer_keeps_inv (h : BlockInv s) (hb : s.busy = true) (hq : sequenceOf s.op = some q) (ans : Reply) :
    BlockInv (answer q ans s) := by
  cases hp : s.pending with
  | none => simpa [answer, hp] using h
  | some r =>
    have closed := closeRequest_keeps_inv h hp ans
    have hb' : (closeRequest r ans s).busy = true := by simpa using hb
    cases he : ans.err with
    | true =>
      rw [answer_err hp he]
      exact respond_keeps_inv closed (by simp) (closed.owed hb') rfl
    | false =>
      rw [answer_ok hp he]
      have named : q.request s = some r := by rw [← nextRequest_of_sequence hq, h.pending_named r hp]
      rcases sequenceOf_cases hq with ⟨ho, rfl⟩ | ⟨_, rfl⟩ | ⟨ho, rfl⟩ | ⟨_, rfl⟩
      · refine initAnswer_keeps_inv closed hb' (by simp) (by simpa using ho)
          (by simpa using initRequest_eq_some named) ?_
        have next : (initWrites s.devAddr)[s.step.toNat]? = some r := by rw [← initRequest_eq]; exact named
        rw [closeRequest_devAddr, closeRequest_step, closeRequest_delivered_ok _ _ _ he, List.take_add_one, next]
        exact (h.handle_growing hb ho).append (List.Sublist.refl [r])
      · exact respond_keeps_inv closed (by simp) (closed.owed hb') rfl (step := 1)
      · exact scanAnswer_keeps_inv _ closed hb' (by simp) (by simpa using ho)
          (by simpa using (scanRequest_eq_some named).1)
      · change BlockInv (thermAnswer ans.data (closeRequest r ans s))
        rw [thermAnswer_eq]
        exact respond_keeps_inv closed (by simp) (closed.owed hb') (by simp [legalResponse, inThermRange_thWord])
          (step := 1) (acc := _) (raw := _) (mag := _)

end Progress

section Steps
variable {s t : State}

theorem smallStep_keeps_inv (h : BlockInv s) (hs : smallStep s = .next t) : BlockInv t := by
  rcases smallStep_cases hs with ⟨rest, rfl⟩ | ⟨ins, rfl⟩ | ⟨hb, w, rest, rfl⟩ | ⟨hb, q, hq, rfl | ⟨a, rest, rfl⟩⟩
  · exact hardReset_keeps_inv (setInputs_keeps_inv h rest)
  · exact setInputs_keeps_inv h ins
  · exact acceptWord_keeps_inv w (setInputs_keeps_inv h rest) hb
  · exact settle_keeps_inv h hq
  · exact answer_keeps_inv (setInputs_keeps_inv h rest) hb hq a

/-- What every small step keeps, every run of small steps keeps. -/
theorem smallReaches_keeps {P : State → Prop} (hk : ∀ s t, P s → smallStep s = .next t → P t)
    (hr : SmallReaches s t) (h : P s) : P t := by
  obtain ⟨n, hn⟩ := hr
  induction n generalizing s with
  | zero =>
    cases hn
    exact h
  | succ n ih =>
    rw [smallRun] at hn
    split at hn
    next u hu => exact ih (hk s u h hu) hn
    · cases hn
    · cases hn

end Steps

/-- Settles O44: the reset values by definition. -/
theorem resetState : Obligations.ResetState := ⟨rfl, rfl, rfl⟩

/-- Settles O45: an idle block with empty logs and no handle. -/
theorem invAtReset : Obligations.InvAtReset := reset_inv

/-- Settles O47, by the cases of a small step. -/
theorem smallStepKeepsInv : Obligations.SmallStepKeepsInv := fun _ _ => smallStep_keeps_inv

/-- Settles O46: a step is a run of small steps, and each of these keeps the invariant. -/
theorem stepKeepsInv : Obligations.StepKeepsInv := fun _ _ h hs =>
  smallReaches_keeps (fun _ _ => smallStep_keeps_inv) (smallReaches_of_step hs) h

end Sys2Proof.Machine
end

section
/-! Who may change the device handle (`10_state.md` R37), and what a scan hands to the host (R36 c): both by the cases of a
big step, then along the events a command is carried through. -/

namespace Sys2Proof.Machine
open Sys2Proof.Claims

section StepCases
variable {s t : State} {w : Word}

/-- Everything taking a word from the port can do, where it answers with a next state. -/
theorem takeCommand_cases (h : takeCommand w s = .next t) : s.busy = false ∧
    ((∃ i, decode w = .ok i ∧ t = carryOut (sequenceFor i) (accept i (recordCommand w s))) ∨
      t = answerIllegal (recordCommand w s)) := by
  unfold takeCommand at h
  split at h
  next i hd =>
    obtain ⟨hb, ht⟩ := exec_eq_next.mp h
    exact ⟨hb, .inl ⟨i, hd, ht⟩⟩
  next =>
    obtain ⟨hb, ht⟩ := whenIdle_eq_next.mp h
    exact ⟨hb, .inr ht.symm⟩

/-- At an event other than a command word and a reset, a busy block resumes its command and an idle one passes events. -/
theorem resume_or_idle_cases {idle : Host.Outcome State Fault Refusal}
    (hi : ∀ u, idle = .next u → ∃ ins, u = setInputs ins s) (h : (if s.busy then resume s else idle) = .next t) :
    (s.busy = false ∧ ∃ ins, t = setInputs ins s) ∨
    (s.busy = true ∧ ∃ q, sequenceOf s.op = some q ∧ t = carryOut q s) := by
  cases hb : s.busy with
  | true => exact .inr ⟨rfl, resume_eq_next (by simpa [hb] using h)⟩
  | false => exact .inl ⟨rfl, hi t (by simpa [hb] using h)⟩

/-- Everything a step can do, where it answers with a next state. -/
theorem step_cases (h : step s = .next t) :
    (∃ rest, s.inputs = .reset :: rest ∧ t = hardReset (setInputs rest s)) ∨
    (∃ w rest, s.inputs = .command w :: rest ∧ takeCommand w (setInputs rest s) = .next t) ∨
    (s.busy = false ∧ ∃ ins, t = setInputs ins s) ∨
    (s.busy = true ∧ ∃ q, sequenceOf s.op = some q ∧ t = carryOut q s) := by
  unfold step nextEvent at h
  split at h
  case h_1 => exact .inr (.inr (resume_or_idle_cases (fun _ hu => ⟨_, (Host.Outcome.next.inj hu).symm⟩) h))
  case h_2 w rest hi => exact .inr (.inl ⟨w, rest, hi, h⟩)
  case h_3 => exact .inr (.inr (resume_or_idle_cases (fun _ hu => by cases hu) h))
  case h_4 => exact .inr (.inr (resume_or_idle_cases (fun _ hu => ⟨_, (Host.Outcome.next.inj hu).symm⟩) h))
  case h_5 => exact .inr (.inr (resume_or_idle_cases (fun _ hu => ⟨_, (Host.Outcome.next.inj hu).symm⟩) h))
  case h_6 rest hi => exact .inl ⟨rest, hi, (Host.Outcome.next.inj h).symm⟩

end StepCases

section Handle
variable {s t : State} {q : Sequence}

/-- The two states have the same `PHASE` and the same `DEV_ADDR`. -/
def SameHandle (s t : State) : Prop := t.phase = s.phase ∧ t.devAddr = s.devAddr

theorem settle_handle (hq : sequenceOf s.op = some q) (hn : s.op ≠ 0x01) : SameHandle s (settle q s) := by
  rcases settle_cases q s with ⟨e, _⟩ | ⟨r, _, _, _, e⟩ | ⟨_, _, _, _, e⟩ <;> rw [e]
  · exact ⟨rfl, rfl⟩
  · exact ⟨rfl, rfl⟩
  · rcases sequenceOf_cases hq with ⟨ho, _⟩ | ⟨_, rfl⟩ | ⟨_, rfl⟩ | ⟨_, rfl⟩
    · exact absurd ho hn
    all_goals exact ⟨rfl, rfl⟩

theorem answer_handle (hq : sequenceOf s.op = some q) (ans : Reply) : SameHandle s (answer q ans s) := by
  cases hp : s.pending with
  | none => simp [answer, hp, SameHandle]
  | some r =>
    cases he : ans.err with
    | true => simp [answer_err hp he, SameHandle]
    | false =>
      obtain ⟨_, _, _, _, _, _, _, hphase, hdev, _⟩ :=
        answerOk_keeps (s := closeRequest r ans s) (by simpa using hq) ans.data
      rw [answer_ok hp he, SameHandle, hphase, hdev]
      simp

/-- A command other than `INIT` keeps the handle as long as it goes on. -/
theorem carryOut_handle (hq : sequenceOf s.op = some q) (hn : s.op ≠ 0x01) : SameHandle s (carryOut q s) := by
  refine (drive_keeps (q := q) (P := fun t => t.op = s.op ∧ SameHandle s t) (fun _ _ h => h) ?_ ?_ s.inputs s
    ⟨rfl, rfl, rfl⟩).2
  · intro t ⟨ho, hphase, hdev⟩
    have hq' : sequenceOf t.op = some q := by rw [ho, hq]
    obtain ⟨ephase, edev⟩ := settle_handle hq' (by rwa [ho])
    exact ⟨(settle_op hq').trans ho, ephase.trans hphase, edev.trans hdev⟩
  · intro a t _ ⟨ho, hphase, hdev⟩
    have hq' : sequenceOf t.op = some q := by rw [ho, hq]
    obtain ⟨ephase, edev⟩ := answer_handle hq' a
    exact ⟨(answer_op hq' a).trans ho, ephase.trans hphase, edev.trans hdev⟩

/-- Accepting a command other than `INIT` keeps the handle, and makes no `INIT` of it. -/
theorem accept_handle {i : Instr} (hi : isInit i = false) (s : State) :
    SameHandle s (accept i s) ∧ ((accept i s).busy = true → (accept i s).op ≠ 0x01) := by
  rcases accept_forms i with ⟨addr, rfl⟩ | ⟨noHandle, forms⟩
  · cases hi
  cases hp : s.phase with
  | uninit =>
    rw [noHandle s hp]
    exact ⟨⟨rfl, rfl⟩, nofun⟩
  | configured =>
    rcases forms with badCount | ⟨op, arg, hop, latched⟩
    · rw [badCount s hp]
      exact ⟨⟨rfl, rfl⟩, nofun⟩
    · rw [(latched s hp).1]
      exact ⟨⟨rfl, rfl⟩, fun _ => hop⟩

theorem accepted_handle {i : Instr} (hi : isInit i = false) (hb : s.busy = false) :
    SameHandle s (carryOut (sequenceFor i) (accept i s)) := by
  obtain ⟨⟨hphase, hdev⟩, hop⟩ := accept_handle hi s
  cases ha : (accept i s).busy with
  | false =>
    rw [carryOut_idle _ ha]
    exact ⟨hphase, hdev⟩
  | true =>
    obtain ⟨ephase, edev⟩ := carryOut_handle (accept_sequence i s hb ha) (hop ha)
    exact ⟨ephase.trans hphase, edev.trans hdev⟩

theorem step_handle (hn : initOrReset s = false) (hs : step s = .next t) : SameHandle s t := by
  rcases step_cases hs with ⟨rest, hi, _⟩ | ⟨w, rest, hi, ht⟩ | ⟨_, ins, rfl⟩ | ⟨hb, q, hq, rfl⟩
  · simp [initOrReset, hi] at hn
  · obtain ⟨hb, ⟨i, hd, rfl⟩ | rfl⟩ := takeCommand_cases ht
    · have hni : isInit i = false := by
        simp only [initOrReset, hi, hd, Bool.or_eq_false_iff] at hn
        exact hn.2
      exact accepted_handle (s := recordCommand w (setInputs rest s)) hni hb
    · exact ⟨rfl, rfl⟩
  · exact ⟨rfl, rfl⟩
  · exact carryOut_handle hq fun ho => by simp [initOrReset, hb, ho] at hn

end Handle

/-- Settles O52: at every other event only a command that is not `INIT` goes on, and it keeps the handle. -/
theorem onlyInitAndResetChangeHandle : Obligations.OnlyInitAndResetChangeHandle := fun _ _ => step_handle

section Scan
variable {s t : State} {count : Byte}

/-- From `s` a scan of `count` pixels has gone on to `t`: no response yet, `STEP` in range, the stored words in the window. -/
structure ScanGoing (s t : State) (count : Byte) : Prop where
  busy : t.busy = true
  responses : t.responses = s.responses
  arg : t.arg = count
  count_le : count.toNat ≤ 64
  step_le : t.step.toNat ≤ count.toNat
  step_lt : t.pending.isSome = true → t.step.toNat < count.toNat
  window : ∀ w ∈ accPrefix t.step.toNat t, inWindow w = true

/-- From `s` a scan of `count` pixels has gone on to `t`, or has ended there with its response. -/
def ScanSoFar (s t : State) (count : Byte) : Prop :=
  ScanGoing s t count ∨ (t.busy = false ∧ ScanResponse s t count.toNat)

theorem scanGoing_of_inv (h : BlockInv s) (hb : s.busy = true) (ho : s.op = 0x20) : ScanGoing s s s.arg := by
  obtain ⟨_, _, hmax, hle⟩ := h.scan_in_flight hb ho
  have named : ∀ r, s.pending = some r → s.step.toNat < s.arg.toNat := fun r hp => by
    have hr := h.pending_named r hp
    rw [nextRequest_of_sequence (q := scanSequence) (by rw [ho]; rfl)] at hr
    exact (scanRequest_eq_some hr).1
  exact ⟨hb, rfl, rfl, hmax, hle, fun hp => named _ (Option.eq_some_of_isSome hp), h.acc_window hb ho⟩

theorem settle_scanSoFar (h : ScanSoFar s t count) : ScanSoFar s (settle scanSequence t) count := by
  rcases h with h | ⟨hb, hr⟩
  · rcases settle_cases scanSequence t with ⟨e, _⟩ | ⟨r, _, _, hr, e⟩ | ⟨_, _, _, hd, e⟩ <;> rw [e]
    · exact .inl h
    · have hlt := (scanRequest_eq_some hr).1
      exact .inl { h with step_lt := fun _ => h.arg ▸ hlt }
    · have hd : t.step.toNat = t.arg.toNat := eq_of_beq hd
      have window := h.window
      rw [hd, h.arg] at window
      refine .inr ⟨rfl, _, congrArg (· ++ _) h.responses, ?_, fun _ => ?_⟩
      · rwa [h.arg]
      · rw [h.arg]
        exact accPrefix_length h.count_le t
  · rw [settle_idle hb]
    exact .inr ⟨hb, hr⟩

/-- A closed request leaves a scan where it was. -/
theorem closeRequest_scanGoing (h : ScanGoing s t count) (r : Request) (ans : Reply) :
    ScanGoing s (closeRequest r ans t) count where
  busy := by simpa using h.busy
  responses := by simpa using h.responses
  arg := by simpa using h.arg
  count_le := h.count_le
  step_le := by simpa using h.step_le
  step_lt hp := by simp at hp
  window := by simpa [accPrefix] using h.window

theorem scanAnswer_scanSoFar (w : Word) (h : ScanGoing s t count) (hp : t.pending = none)
    (hlt : t.step.toNat < count.toNat) : ScanSoFar s (scanAnswer w t) count := by
  cases hv : violates (pixMag w) with
  | true =>
    rw [scanAnswer_range hv]
    exact .inr ⟨rfl, _, congrArg (· ++ _) h.responses, h.window, nofun⟩
  | false =>
    have := h.count_le
    have hs : (t.step + 1).toNat = t.step.toNat + 1 := step_succ (by omega)
    rw [scanAnswer_store hv]
    exact .inl { h with
      step_le := by simp only [hs]; omega
      step_lt := by simp [hp]
      window := by
        change ∀ v ∈ accPrefix (t.step + 1).toNat (writeAcc t.step.toNat (outWord (pixMag w)) t), inWindow v = true
        rw [hs, accPrefix_succ_writeAcc, if_pos (by omega)]
        exact List.forall_mem_append.mpr ⟨h.window, List.forall_mem_singleton.mpr (inWindow_outWord hv)⟩ }

theorem answer_scanSoFar (ans : Reply) (hb : t.busy = true) (h : ScanSoFar s t count) :
    ScanSoFar s (answer scanSequence ans t) count := by
  rcases h with h | ⟨hi, _⟩
  · cases hp : t.pending with
    | none =>
      rw [answer, hp]
      exact .inl h
    | some r =>
      have closed := closeRequest_scanGoing h r ans
      cases he : ans.err with
      | true =>
        rw [answer_err hp he]
        exact .inr ⟨rfl, _, congrArg (· ++ _) closed.responses, nofun, nofun⟩
      | false =>
        rw [answer_ok hp he]
        exact scanAnswer_scanSoFar _ closed (by simp) (by simpa using h.step_lt (by simp [hp]))
  · rw [hb] at hi
    cases hi

theorem carryOut_scanSoFar (h : ScanSoFar s t count) : ScanSoFar s (carryOut scanSequence t) count := by
  refine drive_keeps (P := (ScanSoFar s · count)) ?_ (fun _ => settle_scanSoFar) (fun ans _ => answer_scanSoFar ans) t.inputs t h
  intro u ins hu
  rcases hu with hu | hu
  · exact .inl { hu with }
  · exact .inr hu

theorem ScanSoFar.ended (h : ScanSoFar s t count) (hb : t.busy = false) : ScanResponse s t count.toNat := by
  rcases h with h | ⟨_, h⟩
  · have := h.busy
    rw [hb] at this
    cases this
  · exact h

/-- What acceptance makes of `RDTEMPS`: a scan at its first pixel, or a response without words. -/
theorem acceptRdtemps_scanSoFar (count : Byte) (s : State) : ScanSoFar s (acceptRdtemps count s) count := by
  cases hp : s.phase with
  | uninit =>
    rw [acceptRdtemps, whenConfigured_uninit hp]
    exact .inr ⟨rfl, _, rfl, nofun, nofun⟩
  | configured =>
    rw [acceptRdtemps, whenConfigured_configured hp]
    split
    next hc =>
      obtain ⟨hmin, hmax⟩ := (countLegal_iff count).mp hc
      exact .inl ⟨rfl, rfl, rfl, hmax, Nat.zero_le _, fun _ => hmin, nofun⟩
    · exact .inr ⟨rfl, _, rfl, nofun, nofun⟩

end Scan

/-- Settles O37: a scan in progress has stored only accepted words, and it responds with words it has stored. -/
theorem returnedPixelsInWindow : Obligations.ReturnedPixelsInWindow := by
  unfold Obligations.ReturnedPixelsInWindow
  refine ⟨fun count s t hs hb => ?_, fun s t h hb ho hi hs ht => ?_⟩
  · obtain ⟨_, rfl⟩ := exec_eq_next.mp hs
    exact (carryOut_scanSoFar (acceptRdtemps_scanSoFar count s)).ended hb
  · rcases step_cases hs with ⟨rest, hr, _⟩ | ⟨w, rest, _, hw⟩ | ⟨hidle, _⟩ | ⟨_, q, hq, rfl⟩
    · simp [hr] at hi
    · have hidle : s.busy = false := (takeCommand_cases hw).1
      simp [hb] at hidle
    · simp [hb] at hidle
    · rw [ho] at hq
      cases hq
      exact (carryOut_scanSoFar (.inl (scanGoing_of_inv h hb ho))).ended ht

end Sys2Proof.Machine
end

section
/-! Registers no rule reads before it writes them cannot be seen (`10_state.md` R20, R22, R35): every operation takes states
that differ only there to states that differ only there, so whole runs do. -/

namespace Sys2Proof.Machine

section Operations
variable {s t : State}

theorem setInputs_same (h : SameOutside s t) (ins : List Input) : SameOutside (setInputs ins s) (setInputs ins t) :=
  { h with inputs := rfl }

theorem recordCommand_same (h : SameOutside s t) (w : Word) : SameOutside (recordCommand w s) (recordCommand w t) :=
  { h with commands := congrArg (· ++ [w]) h.commands }

theorem send_same (h : SameOutside s t) (r : Request) : SameOutside (send r s) (send r t) :=
  { h with pending := rfl, trace := congrArg (· ++ [r]) h.trace }

/-- A response makes the registers of the command dead, whatever each state holds in them. -/
theorem respond_same (h : SameOutside s t) (st : Status) (data : List Word)
    (step : BitVec 7 := s.step) (step' : BitVec 7 := t.step) (acc : Vector Word 64 := s.acc)
    (acc' : Vector Word 64 := t.acc) (raw : Word := s.raw) (raw' : Word := t.raw) (mag : BitVec 17 := s.mag)
    (mag' : BitVec 17 := t.mag) :
    SameOutside { respond st data s with step := step, acc := acc, raw := raw, mag := mag }
      { respond st data t with step := step', acc := acc', raw := raw', mag := mag' } :=
  { h with
    devAddr := fun hc => h.devAddr (hc.imp_right nofun)
    busy := rfl
    responses := congrArg (· ++ _) h.responses
    op := nofun, arg := nofun, step := nofun, acc := nofun }

/-- A command with a handle makes `OP`, `ARG` and `STEP` live, and writes each of them first. -/
theorem latch_same (h : SameOutside s t) (hp : s.phase = .configured) (op arg : Byte) :
    SameOutside (latch op arg s) (latch op arg t) :=
  { h with
    devAddr := fun _ => h.devAddr (.inl hp)
    busy := rfl
    op := fun _ => rfl, arg := fun _ => rfl, step := fun _ => rfl, acc := fun _ _ => rfl }

/-- `INIT` makes `DEV_ADDR` live too, and writes it first. -/
theorem acceptInit_same (h : SameOutside s t) (addr : DevAddr) : SameOutside (acceptInit addr s) (acceptInit addr t) :=
  { h with
    phase := rfl, devAddr := fun _ => rfl, busy := rfl
    op := fun _ => rfl, arg := fun _ => rfl, step := fun _ => rfl, acc := fun _ _ => rfl }

theorem accept_same (i : Instr) (h : SameOutside s t) : SameOutside (accept i s) (accept i t) := by
  have answered : ∀ st, SameOutside (respond st [] s) (respond st [] t) := fun st => respond_same h st []
  rcases accept_forms i with ⟨addr, rfl⟩ | ⟨noHandle, forms⟩
  · exact acceptInit_same h addr
  cases hp : s.phase with
  | uninit =>
    rw [noHandle s hp, noHandle t (h.phase ▸ hp)]
    exact answered .notConf
  | configured =>
    rcases forms with badCount | ⟨op, arg, _, latched⟩
    · rw [badCount s hp, badCount t (h.phase ▸ hp)]
      exact answered .badCount
    · rw [(latched s hp).1, (latched t (h.phase ▸ hp)).1]
      exact latch_same h hp op arg

theorem drawDelivery_same (h : SameOutside s t) (r : Request) : SameOutside (drawDelivery r s) (drawDelivery r t) :=
  { h with
    delivered := by simp only [drawDelivery_delivered, h.delivered, h.draws]
    draws := congrArg (· + 1) h.draws }

theorem closeRequest_same (h : SameOutside s t) (r : Request) (ans : Reply) :
    SameOutside (closeRequest r ans s) (closeRequest r ans t) := by
  cases he : ans.err with
  | false =>
    rw [closeRequest_ok he, closeRequest_ok he]
    exact { h with pending := rfl, delivered := congrArg (· ++ [r]) h.delivered }
  | true =>
    rw [closeRequest_err he, closeRequest_err he]
    exact drawDelivery_same (s := { s with pending := none }) (t := { t with pending := none })
      { h with pending := rfl } r

theorem resetRegisters_same (h : SameOutside s t) : SameOutside (resetRegisters s) (resetRegisters t) :=
  { h with
    phase := rfl, devAddr := fun _ => rfl, busy := rfl, pending := rfl
    op := fun _ => rfl, arg := fun _ => rfl, step := fun _ => rfl, acc := fun _ _ => rfl }

theorem hardReset_same (h : SameOutside s t) : SameOutside (hardReset s) (hardReset t) := by
  unfold hardReset
  rw [← h.pending]
  cases s.pending with
  | none => exact resetRegisters_same h
  | some r => exact resetRegisters_same (drawDelivery_same h r)

end Operations

section Commands
variable {s t : State} {q : Sequence}

/-- What a command in progress issues next, and whether it is done, reads live registers only. -/
theorem request_done_same (h : SameOutside s t) (hb : s.busy = true) (hq : sequenceOf s.op = some q) :
    q.request t = q.request s ∧ q.done t = q.done s := by
  have ho := (h.op hb).symm
  have ha := (h.arg hb).symm
  have hs := (h.step hb).symm
  constructor
  · rw [← nextRequest_of_sequence hq, ← nextRequest_of_sequence (ho ▸ hq)]
    exact nextRequest_congr ho ha hs (h.devAddr (.inr hb)).symm
  · rcases sequenceOf_cases hq with ⟨_, rfl⟩ | ⟨_, rfl⟩ | ⟨_, rfl⟩ | ⟨_, rfl⟩
    · simp only [initSequence, hs]
    · rfl
    · simp only [scanSequence, hs, ha]
    · rfl

theorem finish_same (h : SameOutside s t) (hb : s.busy = true) (hq : sequenceOf s.op = some q) (hd : q.done s = true) :
    SameOutside (q.finish s) (q.finish t) := by
  rcases sequenceOf_cases hq with ⟨_, rfl⟩ | ⟨_, rfl⟩ | ⟨ho, rfl⟩ | ⟨_, rfl⟩
  · have hc : SameOutside { s with phase := .configured } { t with phase := .configured } :=
      { h with phase := rfl, devAddr := fun _ => h.devAddr (.inr hb) }
    exact respond_same hc .ok []
  · exact h
  · have hd : s.step.toNat = s.arg.toNat := eq_of_beq hd
    have words := h.acc hb ho
    rw [hd] at words
    change SameOutside (respond .ok (accPrefix s.arg.toNat s) s) (respond .ok (accPrefix t.arg.toNat t) t)
    rw [← h.arg hb, ← words]
    exact respond_same h .ok _
  · exact h

/-- A sample is stored behind the words a scan has stored, or ends the scan with just these. -/
theorem scanAnswer_same (h : SameOutside s t) (hb : s.busy = true) (ho : s.op = 0x20) (w : Word) :
    SameOutside (scanAnswer w s) (scanAnswer w t) := by
  have words := h.acc hb ho
  have hs := h.step hb
  cases hv : violates (pixMag w) with
  | true =>
    rw [scanAnswer_range hv, scanAnswer_range hv, ← hs, ← words]
    exact respond_same h .range _ (raw := w) (raw' := w) (mag := _) (mag' := _)
  | false =>
    rw [scanAnswer_store hv, scanAnswer_store hv, ← hs]
    refine { h with step := fun _ => rfl, acc := fun _ _ => ?_ }
    change accPrefix (s.step + 1).toNat (writeAcc s.step.toNat (outWord (pixMag w)) s) =
      accPrefix (s.step + 1).toNat (writeAcc s.step.toNat (outWord (pixMag w)) t)
    by_cases hlt : s.step.toNat < 127
    · rw [step_succ hlt, accPrefix_succ_writeAcc, accPrefix_succ_writeAcc, words]
    · have wrap : s.step + 1 = 0 := by bv_omega
      rw [wrap]
      rfl

theorem answerOk_same (h : SameOutside s t) (hb : s.busy = true) (hq : sequenceOf s.op = some q) (w : Word) :
    SameOutside (q.answerOk w s) (q.answerOk w t) := by
  rcases sequenceOf_cases hq with ⟨ho, rfl⟩ | ⟨_, rfl⟩ | ⟨ho, rfl⟩ | ⟨_, rfl⟩
  · exact { h with
      step := fun _ => congrArg (· + 1) (h.step hb)
      acc := fun _ hx => absurd (ho.symm.trans hx) (by decide) }
  · exact respond_same h .ok [] (step := 1) (step' := 1)
  · exact scanAnswer_same h hb ho w
  · change SameOutside (thermAnswer w s) (thermAnswer w t)
    rw [thermAnswer_eq, thermAnswer_eq]
    exact respond_same h .ok [outWord (thMag w)] (step := 1) (step' := 1) (acc := _) (acc' := _) (raw := w) (raw' := w)
      (mag := _) (mag' := _)

theorem settle_same (h : SameOutside s t) (hq : s.busy = true → sequenceOf s.op = some q) :
    SameOutside (settle q s) (settle q t) := by
  cases hb : s.busy with
  | false =>
    rw [settle_idle hb, settle_idle (h.busy ▸ hb)]
    exact h
  | true =>
    obtain ⟨hr, hd⟩ := request_done_same h hb (hq hb)
    rcases settle_cases q s with ⟨e, hn⟩ | ⟨r, _, hp, hx, e⟩ | ⟨_, hp, hx, hy, e⟩
    · have et : settle q t = t := by
        rcases hn with hn | hp | ⟨_, hp, hx, hy⟩
        · simp [hb] at hn
        · obtain ⟨r, hp⟩ := Option.isSome_iff_exists.mp hp
          exact settle_waiting (h.pending ▸ hp)
        · simp [settle, ← h.pending, hp, hr, hx, hd, hy]
      rw [e, et]
      exact h
    · rw [e, settle_issue (h.busy ▸ hb) (h.pending ▸ hp) (hr.trans hx)]
      exact send_same h r
    · rw [e, settle_finish (h.busy ▸ hb) (h.pending ▸ hp) (hr.trans hx) (hd.trans hy)]
      exact finish_same h hb (hq hb) hy

theorem answer_same (h : SameOutside s t) (hb : s.busy = true) (hq : sequenceOf s.op = some q) (ans : Reply) :
    SameOutside (answer q ans s) (answer q ans t) := by
  cases hp : s.pending with
  | none =>
    rw [answer, answer, ← h.pending, hp]
    exact h
  | some r =>
    have closed := closeRequest_same h r ans
    cases he : ans.err with
    | true =>
      rw [answer_err hp he, answer_err (h.pending ▸ hp) he]
      exact respond_same closed .transport []
    | false =>
      rw [answer_ok hp he, answer_ok (h.pending ▸ hp) he]
      exact answerOk_same closed (by simpa using hb) (by simpa using hq) ans.data

end Commands

section Runs
variable {q : Sequence} {s t : State}

/-- Driving keeps a relation between states that agree on whether they wait, if settling, answering and moving on in the
events keep it: both states then consume the same events. -/
theorem drive_related {R : State → State → Prop} (hw : ∀ {s t}, R s t → s.busy = t.busy ∧ s.pending = t.pending)
    (hi : ∀ {s t} ins, R s t → R (setInputs ins s) (setInputs ins t))
    (hs : ∀ {s t}, R s t → R (settle q s) (settle q t))
    (ha : ∀ {s t} ans, s.busy = true → R s t → R (answer q ans s) (answer q ans t)) :
    ∀ (ins : List Input) {s t : State}, R s t → R (drive q ins s) (drive q ins t) := by
  intro ins
  induction ins with
  | nil => exact fun h => hs (hi _ h)
  | cons i rest ih =>
    intro s t h
    have settled := hs (hi (i :: rest) h)
    obtain ⟨hbusy, hpending⟩ := hw settled
    cases i with
    | reset => exact hi _ h
    | command w => exact settled
    | reply ans =>
      simp only [drive, ← hbusy, ← hpending]
      split
      next hwait => exact ih (ha ans (Bool.and_eq_true_iff.mp hwait).1 settled)
      · exact settled
    | staleReply ans =>
      simp only [drive, ← hbusy, ← hpending]
      split
      · exact ih settled
      · exact settled
    | delay =>
      simp only [drive, ← hbusy, ← hpending]
      split
      · exact ih settled
      · exact settled

/-- The two states look the same, and a command in progress in them is carried out by `q`. -/
def SameUnder (q : Sequence) (s t : State) : Prop :=
  SameOutside s t ∧ (s.busy = true → sequenceOf s.op = some q)

theorem settle_sameUnder (h : SameUnder q s t) : SameUnder q (settle q s) (settle q t) := by
  obtain ⟨h, hq⟩ := h
  refine ⟨settle_same h hq, fun hb => ?_⟩
  cases hs : s.busy with
  | true => rw [settle_op (hq hs), hq hs]
  | false =>
    rw [settle_idle hs, hs] at hb
    cases hb

theorem answer_sameUnder (ans : Reply) (hb : s.busy = true) (h : SameUnder q s t) :
    SameUnder q (answer q ans s) (answer q ans t) :=
  ⟨answer_same h.1 hb (h.2 hb) ans, fun _ => by rw [answer_op (h.2 hb), h.2 hb]⟩

theorem carryOut_same (h : SameOutside s t) (hq : s.busy = true → sequenceOf s.op = some q) :
    SameOutside (carryOut q s) (carryOut q t) := by
  rw [carryOut, carryOut, ← h.inputs]
  exact (drive_related (R := SameUnder q) (fun h => ⟨h.1.busy, h.1.pending⟩) (fun ins h => ⟨setInputs_same h.1 ins, h.2⟩)
    settle_sameUnder answer_sameUnder s.inputs ⟨h, hq⟩).1

end Runs

section Outcomes
variable {s t u v : State}

theorem whenIdle_same (h : SameOutside s t) (hn : s.busy = false → SameOutside u v) :
    sameOutcome (whenIdle s u) (whenIdle t v) := by
  cases hb : s.busy with
  | false =>
    rw [whenIdle_idle hb, whenIdle_idle (h.busy ▸ hb)]
    exact hn hb
  | true =>
    rw [whenIdle_busy hb, whenIdle_busy (h.busy ▸ hb)]
    rfl

theorem exec_same (i : Instr) (h : SameOutside s t) : sameOutcome (exec i s) (exec i t) := by
  rw [exec_eq, exec_eq]
  exact whenIdle_same h fun hb => carryOut_same (accept_same i h) (accept_sequence i s hb)

theorem takeCommand_same (w : Word) (h : SameOutside s t) : sameOutcome (takeCommand w s) (takeCommand w t) := by
  have hr := recordCommand_same h w
  unfold takeCommand
  split
  · exact exec_same _ hr
  · exact whenIdle_same h fun _ => respond_same hr .illegal []

theorem resume_same (h : SameOutside s t) (hb : s.busy = true) : sameOutcome (resume s) (resume t) := by
  unfold resume
  rw [← h.op hb]
  cases hq : sequenceOf s.op with
  | none => rfl
  | some q =>
    obtain ⟨hr, hd⟩ := request_done_same h hb hq
    have hstuck : stuck q t = stuck q s := by rw [stuck, stuck, ← h.pending, hr, hd]
    simp only [hstuck]
    split
    · rfl
    · exact carryOut_same h fun _ => hq

/-- At an event other than a command word and a reset. -/
theorem resume_or_idle_same {idle idle' : Host.Outcome State Fault Refusal} (h : SameOutside s t)
    (hi : sameOutcome idle idle') :
    sameOutcome (if s.busy then resume s else idle) (if t.busy then resume t else idle') := by
  rw [← h.busy]
  split
  next hb => exact resume_same h hb
  · exact hi

theorem step_same (h : SameOutside s t) : sameOutcome (step s) (step t) := by
  unfold step nextEvent
  rw [← h.inputs]
  split
  · exact resume_or_idle_same h h
  · exact takeCommand_same _ (setInputs_same h _)
  · exact resume_or_idle_same h rfl
  · exact resume_or_idle_same h (setInputs_same h _)
  · exact resume_or_idle_same h (setInputs_same h _)
  · exact hardReset_same (setInputs_same h _)

end Outcomes

/-- Settles O55: a step keeps two states the same outside dead registers, one case per next event. -/
theorem deadRegistersAreInvisible : Obligations.DeadRegistersAreInvisible := fun _ _ => step_same

end Sys2Proof.Machine
end

section
/-! What no step undoes (`20_memory.md` R51, R54): the logs grow along every small step, hence along a big one, and the
events left are those a big step has not consumed. -/

namespace Sys2Proof.Machine

/-- From `s` to `t` the logs are only added to at their end. -/
structure LogsGrow (s t : State) : Prop where
  commands : s.commands <+: t.commands
  trace : s.trace <+: t.trace
  responses : s.responses <+: t.responses
  delivered : s.delivered <+: t.delivered
  draws : s.draws ≤ t.draws

namespace LogsGrow
variable {s t u : State}

theorem refl (s : State) : LogsGrow s s :=
  ⟨List.prefix_refl _, List.prefix_refl _, List.prefix_refl _, List.prefix_refl _, Nat.le_refl _⟩

theorem trans (h : LogsGrow s t) (k : LogsGrow t u) : LogsGrow s u :=
  ⟨h.commands.trans k.commands, h.trace.trans k.trace, h.responses.trans k.responses, h.delivered.trans k.delivered,
    h.draws.trans k.draws⟩

end LogsGrow

section LogsGrow
variable {s t : State} {q : Sequence}

theorem setInputs_logsGrow (ins : List Input) (s : State) : LogsGrow s (setInputs ins s) :=
  { LogsGrow.refl s with }

theorem recordCommand_logsGrow (w : Word) (s : State) : LogsGrow s (recordCommand w s) :=
  { LogsGrow.refl s with commands := List.prefix_append _ _ }

theorem send_logsGrow (r : Request) (s : State) : LogsGrow s (send r s) :=
  { LogsGrow.refl s with trace := List.prefix_append _ _ }

theorem respond_logsGrow (st : Status) (data : List Word) (s : State) : LogsGrow s (respond st data s) :=
  { LogsGrow.refl s with responses := List.prefix_append _ _ }

theorem drawDelivery_logsGrow (r : Request) (s : State) : LogsGrow s (drawDelivery r s) :=
  { LogsGrow.refl s with
    delivered := by
      rcases drawDelivery_delivered_cases r s with e | e <;> rw [e]
      exact List.prefix_append _ _
    draws := Nat.le_succ _ }

theorem closeRequest_logsGrow (r : Request) (ans : Reply) (s : State) : LogsGrow s (closeRequest r ans s) := by
  cases he : ans.err with
  | true =>
    rw [closeRequest_err he]
    exact { drawDelivery_logsGrow r { s with pending := none } with }
  | false =>
    rw [closeRequest_ok he]
    exact { LogsGrow.refl s with delivered := List.prefix_append _ _ }

/-- Reset gives the registers their reset values and keeps the logs. -/
theorem hardReset_logsGrow (s : State) : LogsGrow s (hardReset s) := by
  cases hp : s.pending with
  | none =>
    rw [hardReset, hp]
    exact { LogsGrow.refl s with }
  | some r =>
    rw [hardReset, hp]
    exact { drawDelivery_logsGrow r s with }

theorem accept_logsGrow (i : Instr) (s : State) : LogsGrow s (accept i s) := by
  rcases accept_forms i with ⟨addr, rfl⟩ | ⟨noHandle, forms⟩
  · exact { LogsGrow.refl s with }
  cases hp : s.phase with
  | uninit =>
    rw [noHandle s hp]
    exact respond_logsGrow _ _ s
  | configured =>
    rcases forms with badCount | ⟨op, arg, _, latched⟩
    · rw [badCount s hp]
      exact respond_logsGrow _ _ s
    · rw [(latched s hp).1]
      exact { LogsGrow.refl s with }

theorem acceptWord_logsGrow (w : Word) (s : State) : LogsGrow s (acceptWord w s) := by
  rw [acceptWord]
  cases decode w with
  | ok i => exact (recordCommand_logsGrow w s).trans (accept_logsGrow i _)
  | error e => exact (recordCommand_logsGrow w s).trans (respond_logsGrow _ _ _)

theorem answerOk_responses (hq : sequenceOf s.op = some q) (w : Word) : s.responses <+: (q.answerOk w s).responses := by
  rcases sequenceOf_cases hq with ⟨_, rfl⟩ | ⟨_, rfl⟩ | ⟨_, rfl⟩ | ⟨_, rfl⟩
  · exact List.prefix_refl _
  · exact List.prefix_append _ _
  · cases hv : violates (pixMag w) with
    | true =>
      simp only [scanSequence, scanAnswer_range hv]
      exact List.prefix_append _ _
    | false =>
      simp only [scanSequence, scanAnswer_store hv]
      exact List.prefix_refl _
  · simp only [thermSequence, thermAnswer_eq]
    exact List.prefix_append _ _

theorem answerOk_logsGrow (hq : sequenceOf s.op = some q) (w : Word) : LogsGrow s (q.answerOk w s) := by
  obtain ⟨_, _, _, htrace, hdelivered, _, hdraws, _, _, hcommands⟩ := answerOk_keeps hq w
  exact ⟨by rw [hcommands], by rw [htrace], answerOk_responses hq w, by rw [hdelivered], by rw [hdraws]⟩

theorem finish_responses (hq : sequenceOf s.op = some q) : s.responses <+: (q.finish s).responses := by
  rcases sequenceOf_cases hq with ⟨_, rfl⟩ | ⟨_, rfl⟩ | ⟨_, rfl⟩ | ⟨_, rfl⟩
  · exact List.prefix_append _ _
  · exact List.prefix_refl _
  · exact List.prefix_append _ _
  · exact List.prefix_refl _

theorem finish_logsGrow (hq : sequenceOf s.op = some q) : LogsGrow s (q.finish s) := by
  obtain ⟨_, _, _, htrace, hdelivered, _, hdraws, _, _, hcommands⟩ := finish_keeps hq
  exact ⟨by rw [hcommands], by rw [htrace], finish_responses hq, by rw [hdelivered], by rw [hdraws]⟩

theorem settle_logsGrow (hq : sequenceOf s.op = some q) : LogsGrow s (settle q s) := by
  rcases settle_cases q s with ⟨e, _⟩ | ⟨r, _, _, _, e⟩ | ⟨_, _, _, _, e⟩ <;> rw [e]
  · exact .refl s
  · exact send_logsGrow r s
  · exact finish_logsGrow hq

theorem answer_logsGrow (hq : sequenceOf s.op = some q) (ans : Reply) : LogsGrow s (answer q ans s) := by
  cases hp : s.pending with
  | none =>
    rw [answer, hp]
    exact .refl s
  | some r =>
    refine (closeRequest_logsGrow r ans s).trans ?_
    cases he : ans.err with
    | true =>
      rw [answer_err hp he]
      exact respond_logsGrow _ _ _
    | false =>
      rw [answer_ok hp he]
      exact answerOk_logsGrow (by rwa [closeRequest_op]) ans.data

theorem smallStep_logsGrow (h : smallStep s = .next t) : LogsGrow s t := by
  rcases smallStep_cases h with ⟨rest, rfl⟩ | ⟨ins, rfl⟩ | ⟨_, w, rest, rfl⟩ | ⟨_, q, hq, rfl | ⟨a, rest, rfl⟩⟩
  · exact (setInputs_logsGrow rest s).trans (hardReset_logsGrow _)
  · exact setInputs_logsGrow ins s
  · exact (setInputs_logsGrow rest s).trans (acceptWord_logsGrow w _)
  · exact settle_logsGrow hq
  · exact (setInputs_logsGrow rest s).trans (answer_logsGrow (s := setInputs rest s) hq a)

theorem step_logsGrow (h : step s = .next t) : LogsGrow s t :=
  smallReaches_keeps (fun _ _ grown hs => grown.trans (smallStep_logsGrow hs)) (smallReaches_of_step h) (.refl s)

end LogsGrow

section Events
variable {s t : State} {q : Sequence}

theorem hardReset_inputs (s : State) : (hardReset s).inputs = s.inputs := by
  cases hp : s.pending <;> rw [hardReset, hp] <;> rfl

theorem accept_inputs (i : Instr) (s : State) : (accept i s).inputs = s.inputs := by
  rw [← setInputs_self s, accept_setInputs]
  rfl

theorem sequenceFor_finish_inputs (i : Instr) (s : State) : ((sequenceFor i).finish s).inputs = s.inputs := by
  cases i <;> rfl

theorem carryOut_inputs (hf : ∀ u, (q.finish u).inputs = u.inputs) (s : State) : (carryOut q s).inputs <:+ s.inputs :=
  drive_inputs_suffix hf s.inputs s

theorem resume_inputs (h : resume s = .next t) : t.inputs <:+ s.inputs := by
  obtain ⟨q, hq, rfl⟩ := resume_eq_next h
  refine carryOut_inputs ?_ s
  rcases sequenceOf_cases hq with ⟨_, rfl⟩ | ⟨_, rfl⟩ | ⟨_, rfl⟩ | ⟨_, rfl⟩ <;> exact fun _ => rfl

theorem resume_or_idle_inputs {idle : Host.Outcome State Fault Refusal}
    (hi : ∀ u, idle = .next u → u.inputs <:+ s.inputs) (h : (if s.busy then resume s else idle) = .next t) :
    t.inputs <:+ s.inputs := by
  split at h
  · exact resume_inputs h
  · exact hi t h

theorem takeCommand_inputs {w : Word} (h : takeCommand w s = .next t) : t.inputs <:+ s.inputs := by
  obtain ⟨_, ⟨i, _, rfl⟩ | rfl⟩ := takeCommand_cases h
  · have left := carryOut_inputs (sequenceFor_finish_inputs i) (accept i (recordCommand w s))
    rwa [accept_inputs] at left
  · exact List.suffix_refl _

/-- A step takes events from the front only, one case per next event. -/
theorem step_inputs (h : step s = .next t) : t.inputs <:+ s.inputs := by
  unfold step nextEvent at h
  have passed : ∀ {e rest}, s.inputs = e :: rest → rest <:+ s.inputs := fun hi => hi ▸ List.suffix_cons _ _
  split at h
  case h_1 => exact resume_or_idle_inputs (fun _ hu => by cases hu; exact List.suffix_refl _) h
  case h_2 hi => exact (takeCommand_inputs h).trans (passed hi)
  case h_3 => exact resume_or_idle_inputs (fun _ hu => by cases hu) h
  case h_4 hi => exact resume_or_idle_inputs (fun _ hu => by cases hu; exact passed hi) h
  case h_5 hi => exact resume_or_idle_inputs (fun _ hu => by cases hu; exact passed hi) h
  case h_6 hi =>
    cases h
    rw [hardReset_inputs]
    exact passed hi

end Events

/-- Settles O53: the logs grow along the small steps a step is made of, and the events by the cases of the next event. -/
theorem logsOnlyGrow : Obligations.LogsOnlyGrow := fun _ _ h =>
  have grown := step_logsGrow h
  ⟨grown.commands, grown.trace, grown.responses, grown.delivered, grown.draws, step_inputs h⟩

end Sys2Proof.Machine
end

section
/-! The first request of a command (`20_memory.md` R43): where a command is accepted and no event has come, it issues the
request `STEP = 0` names and waits. -/

namespace Sys2Proof.Machine
open Sys2Proof.Claims

section FirstRequest
variable {i : Instr} {s : State}

/-- The accepted command `i` is latched in `u`, with the logs as in `s` and its first request next. -/
structure Latched (i : Instr) (s u : State) : Prop where
  busy : u.busy = true
  pending : u.pending = s.pending
  step : u.step = 0
  word : wordOf u.op u.arg = encode i
  request : nextRequest u = some (firstRequest s.devAddr i)
  inputs : u.inputs = s.inputs
  trace : u.trace = s.trace
  responses : u.responses = s.responses
  delivered : u.delivered = s.delivered

theorem latch_latched {op arg : Byte} (hw : wordOf op arg = encode i)
    (hr : nextRequest (latch op arg s) = some (firstRequest s.devAddr i)) : Latched i s (latch op arg s) :=
  ⟨rfl, rfl, rfl, hw, hr, rfl, rfl, rfl, rfl⟩

/-- A command other than `INIT` is latched where there is a handle. -/
theorem whenConfigured_latched {op arg : Byte} (hi : isInit i = true ∨ s.phase = .configured) (hn : isInit i = false)
    (hw : wordOf op arg = encode i) (hr : nextRequest (latch op arg s) = some (firstRequest s.devAddr i)) :
    Latched i s (whenConfigured s (latch op arg s)) := by
  rw [whenConfigured_configured (hi.resolve_left (by simp [hn]))]
  exact latch_latched hw hr

theorem nextRequest_latch_config {op reg v : Byte} (hq : sequenceOf op = some configSequence)
    (hreg : configReg op = reg) : nextRequest (latch op v s) = some (writeByte s.devAddr reg v) := by
  rw [nextRequest_of_sequence (s := latch op v s) hq, ← hreg]
  rfl

/-- A scan of at least one pixel reads pixel 0 first. -/
theorem nextRequest_latch_scan {count : Byte} (hc : countLegal count = true) :
    nextRequest (latch 0x20 count s) = some (readWord s.devAddr 0x80) :=
  if_pos ((countLegal_iff count).mp hc).1

theorem accept_latched (hi : isInit i = true ∨ s.phase = .configured)
    (hc : ∀ count, i = .rdtemps count → countLegal count = true) : Latched i s (accept i s) := by
  cases i with
  | init addr => exact ⟨rfl, rfl, rfl, rfl, rfl, rfl, rfl, rfl, rfl⟩
  | setmode v => exact whenConfigured_latched hi rfl rfl (nextRequest_latch_config rfl rfl)
  | trigrst v => exact whenConfigured_latched hi rfl rfl (nextRequest_latch_config rfl rfl)
  | setrate v => exact whenConfigured_latched hi rfl rfl (nextRequest_latch_config rfl rfl)
  | setint v => exact whenConfigured_latched hi rfl rfl (nextRequest_latch_config rfl rfl)
  | clrstat v => exact whenConfigured_latched hi rfl rfl (nextRequest_latch_config rfl rfl)
  | rdtherm => exact whenConfigured_latched hi rfl rfl rfl
  | rdtemps count =>
    have legal := hc count rfl
    rw [accept, acceptRdtemps, if_pos legal]
    exact whenConfigured_latched hi rfl rfl (nextRequest_latch_scan legal)

/-- With no event to come, an accepted command issues its first request and stops there. -/
theorem exec_issues (hidle : Idle s) (hin : s.inputs = []) (h : Latched i s (accept i s)) :
    exec i s = .next (send (firstRequest s.devAddr i) (accept i s)) := by
  obtain ⟨hb, hp⟩ := hidle
  have hr : (sequenceFor i).request (accept i s) = some (firstRequest s.devAddr i) := by
    rw [← nextRequest_of_sequence (accept_sequence i s hb h.busy), h.request]
  have events : setInputs [] (accept i s) = accept i s := by
    rw [← hin, ← h.inputs, setInputs_self]
  rw [exec_eq, whenIdle_idle hb, carryOut, h.inputs, hin, drive_nil, events,
    settle_issue h.busy (h.pending.trans hp) hr]

end FirstRequest

/-- Settles O42: acceptance latches the command, and settling it issues the request `STEP = 0` names. -/
theorem commandIssuesAndWaits : Obligations.CommandIssuesAndWaits := by
  intro i s hidle hin hi hc
  have h := accept_latched hi hc
  exact ⟨_, _, exec_issues hidle hin h, h.busy, rfl, by rw [send_trace, h.trace], by rw [nextRequest_send, h.request], rfl,
    h.word, h.step, h.responses, h.delivered⟩

end Sys2Proof.Machine
end

section
/-! The registers on the bus (`20_memory.md` R62): no run puts another one there, because the invariant holds along every
run; and each is there after one command to a block that an `INIT` has just configured. -/

namespace Sys2Proof.Machine
open Sys2Proof.Claims

section Registers

/-- The register of a pixel does not wrap (R46). -/
theorem pixelReg_toNat {i : Nat} (h : i < 64) : (pixelReg i).toNat = 0x80 + 2 * i := by
  have hbase : pixelBase.toNat = 0x80 := rfl
  have htwo : (2 : Byte).toNat = 2 := rfl
  rw [pixelReg, BitVec.toNat_add, BitVec.toNat_mul, BitVec.toNat_ofNat, hbase, htwo]
  omega

theorem pixelReg_eq {i : Nat} (h : i < 64) : pixelReg i = BitVec.ofNat 8 (0x80 + 2 * i) :=
  BitVec.eq_of_toNat_eq (by rw [pixelReg_toNat h, BitVec.toNat_ofNat, Nat.mod_eq_of_lt (by omega)])

/-- The registers of R62: those named one by one, and the pixels' in the terms of `pixelReg`. -/
theorem mem_busRegisters {reg : Byte} : reg ∈ busRegisters ↔
    (reg = 0x00 ∨ reg = 0x01 ∨ reg = 0x02 ∨ reg = 0x03 ∨ reg = 0x05 ∨ reg = 0x0E) ∨ ∃ i < 64, reg = pixelReg i := by
  have pixels : reg ∈ (List.range 64).map (fun i => BitVec.ofNat 8 (0x80 + 2 * i)) ↔ ∃ i < 64, reg = pixelReg i := by
    simp only [List.mem_map, List.mem_range]
    exact exists_congr fun i => and_congr_right fun h => by rw [pixelReg_eq h, eq_comm]
  rw [busRegisters, List.mem_append, pixels]
  simp only [List.mem_cons, List.not_mem_nil, or_false]

theorem legalRequest_reg {r : Request} (h : legalRequest r = true) : r.reg ∈ busRegisters := by
  rw [mem_busRegisters]
  rw [legalRequest] at h
  cases hk : r.kind <;> rw [hk] at h
  · simp only [Bool.and_eq_true, Bool.or_eq_true, beq_iff_eq] at h
    tauto
  · simp only [Bool.and_eq_true, Bool.or_eq_true, beq_iff_eq, List.any_eq_true, List.mem_range] at h
    tauto

end Registers

section Runs
variable {M : Host.Core} {s t : M.State}

/-- A run of one step more is a step and the run from there. -/
theorem run_succ_eq_next {n : Nat} : M.run (n + 1) s = .next t ↔ ∃ u, M.step s = .next u ∧ M.run n u = .next t := by
  rw [Host.Core.run]
  cases M.step s <;> simp

/-- What every step keeps, every run keeps. -/
theorem run_keeps {P : M.State → Prop} (hk : ∀ s t, P s → M.step s = .next t → P t) {n : Nat}
    (hr : M.run n s = .next t) (h : P s) : P t := by
  induction n generalizing s with
  | zero =>
    cases hr
    exact h
  | succ n ih =>
    obtain ⟨u, hu, hr⟩ := run_succ_eq_next.mp hr
    exact ih hr (hk s u h hu)

/-- The invariant holds after every run from reset. -/
theorem run_inv {ins : List Input} {n : Nat} {t : State}
    (hr : Host.Core.run core n { State.reset with inputs := ins } = .next t) : BlockInv t :=
  run_keeps (M := core) stepKeepsInv hr (setInputs_keeps_inv reset_inv ins)

end Runs

section OnBus
variable {t : State} {i : Instr} {w : Word} {reg : Byte}

/-- Some events and number of steps put the register on the bus. -/
def PutOnBus (reg : Byte) : Prop := ∃ (ins : List Input) (n : Nat) (t : State),
  Host.Core.run core n { State.reset with inputs := ins } = .next t ∧ ∃ r ∈ t.trace, r.reg = reg

theorem takeCommand_decoded (hd : decode w = .ok i) (s : State) : takeCommand w s = exec i (recordCommand w s) := by
  rw [takeCommand, hd]

/-- An `INIT` with its four answers, then the command word `w` and more events. -/
def constructThen (w : Word) (rest : List Input) : List Input :=
  .command 0x0169 :: okReply 0 :: okReply 0 :: okReply 0 :: okReply 0 :: .command w :: rest

/-- The block that `INIT 0x69` has just configured, with these events to come. -/
def constructed (ins : List Input) : State :=
  { State.reset with
    phase := .configured, devAddr := 0x69, op := 0x01, arg := 0x69, step := 4, inputs := ins
    commands := [0x0169], trace := initWrites 0x69, delivered := initWrites 0x69
    responses := [{ status := .ok, data := [] }] }

/-- A write of the construction table that is answered `Ok` advances the construction. -/
theorem drive_init_write {s : State} {rest : List Input} (reg val : Byte) (hb : s.busy = true) (hp : s.pending = none)
    (hr : initRequest s = some (writeByte s.devAddr reg val)) :
    drive initSequence (okReply 0 :: rest) s = drive initSequence rest { s with
      step := s.step + 1, inputs := okReply 0 :: rest
      trace := s.trace ++ [writeByte s.devAddr reg val]
      delivered := s.delivered ++ [writeByte s.devAddr reg val] } := by
  rw [okReply, drive_reply_issue (q := initSequence) _ hb hp hr, answer_ok (send_pending _ _) rfl, closeRequest_ok rfl]
  simp only [initSequence, send, setInputs, hp]

theorem step_constructThen (w : Word) (rest : List Input) :
    step { State.reset with inputs := constructThen w rest } = .next (constructed (.command w :: rest)) := by
  have hd : decode 0x0169 = .ok (.init 0x69) := by decide
  refine (takeCommand_decoded hd (setInputs (constructThen w rest).tail State.reset)).trans
    (exec_eq_next.mpr ⟨rfl, ?_⟩)
  rw [carryOut, accept_inputs]
  simp only [recordCommand_inputs, setInputs_inputs, sequenceFor, constructThen, List.tail_cons]
  rw [drive_init_write 0x00 0x00 rfl rfl rfl, drive_init_write 0x01 0x3F rfl rfl rfl,
    drive_init_write 0x03 0x00 rfl rfl rfl, drive_init_write 0x02 0x00 rfl rfl rfl, drive_command]
  rfl

/-- Right after construction the block carries out the command word it is given. -/
theorem step_constructed (hd : decode w = .ok i) (rest : List Input) :
    step (constructed (.command w :: rest)) = exec i (recordCommand w (constructed rest)) :=
  takeCommand_decoded hd (constructed rest)

/-- What a command does right after construction, a run from reset does. -/
theorem putOnBus_of_exec (hd : decode w = .ok i) (rest : List Input)
    (he : exec i (recordCommand w (constructed rest)) = .next t) (hr : ∃ r ∈ t.trace, r.reg = reg) : PutOnBus reg := by
  have second : Host.Core.run core 1 (constructed (.command w :: rest)) = .next t :=
    (run_succ_eq_next (M := core)).mpr ⟨t, (step_constructed hd rest).trans he, rfl⟩
  exact ⟨constructThen w rest, 2, t, (run_succ_eq_next (M := core)).mpr ⟨_, step_constructThen w rest, second⟩, hr⟩

/-- A command puts the register of its first request on the bus. -/
theorem putOnBus_first (hd : decode w = .ok i) (hc : ∀ count, i = .rdtemps count → countLegal count = true) :
    PutOnBus (firstRequest 0x69 i).reg := by
  obtain ⟨t, r, he, _, _, htrace, _, hr, _⟩ :=
    commandIssuesAndWaits i (recordCommand w (constructed [])) ⟨rfl, rfl⟩ rfl (.inr rfl) hc
  exact putOnBus_of_exec hd [] he ⟨r, by simp [htrace], by rw [hr]; rfl⟩

end OnBus

section Scan

/-- A sample in the window stores its word and advances the scan. -/
theorem drive_scan_sample {s : State} {rest : List Input} (hb : s.busy = true) (hp : s.pending = none)
    (hlt : s.step.toNat < s.arg.toNat) : ∃ u, drive scanSequence (okReply 0 :: rest) s = drive scanSequence rest u ∧
      u.busy = true ∧ u.pending = none ∧ u.step = s.step + 1 ∧ u.arg = s.arg := by
  have hr : scanSequence.request (setInputs (okReply 0 :: rest) s) =
      some (readWord s.devAddr (pixelReg s.step.toNat)) := if_pos hlt
  refine ⟨_, drive_reply_issue _ hb hp hr, ?_⟩
  rw [answer_ok (send_pending _ _) rfl]
  simp only [scanSequence, scanAnswer_store (w := 0) (by decide)]
  simp [hb]

/-- A scan given `k` accepted samples has read on to pixel `STEP + k`. -/
theorem drive_scan_reads (k : Nat) : ∀ {s : State}, s.busy = true → s.pending = none →
    s.step.toNat + k < s.arg.toNat → s.arg.toNat ≤ 64 →
    ∃ r ∈ (drive scanSequence (List.replicate k (okReply 0)) s).trace, r.reg = pixelReg (s.step.toNat + k) := by
  induction k with
  | zero =>
    intro s hb hp hlt _
    have hr : scanSequence.request (setInputs [] s) = some (readWord s.devAddr (pixelReg s.step.toNat)) := if_pos hlt
    rw [List.replicate_zero, drive_nil, settle_issue (s := setInputs [] s) hb hp hr]
    exact ⟨_, List.mem_append_right _ (List.mem_singleton_self _), rfl⟩
  | succ k ih =>
    intro s hb hp hlt hmax
    obtain ⟨u, e, ub, up, ustep, uarg⟩ := drive_scan_sample (rest := List.replicate k (okReply 0)) hb hp (by omega)
    have hstep : u.step.toNat = s.step.toNat + 1 := by rw [ustep, step_succ (by omega)]
    rw [List.replicate_succ, e, show s.step.toNat + (k + 1) = u.step.toNat + k by omega]
    exact ih ub up (by rw [uarg]; omega) (by rwa [uarg])

/-- A scan of a whole frame with `i` samples answered has sent the read of pixel `i`. -/
theorem putOnBus_pixel {i : Nat} (h : i < 64) : PutOnBus (pixelReg i) := by
  refine putOnBus_of_exec (w := 0x2040) (i := .rdtemps 64) rfl (List.replicate i (okReply 0))
    (exec_eq_next.mpr ⟨rfl, rfl⟩) ?_
  obtain ⟨r, hm, hr⟩ := drive_scan_reads i
    (s := accept (.rdtemps 64) (recordCommand 0x2040 (constructed (List.replicate i (okReply 0))))) rfl rfl
    (by change 0 + i < 64; omega) (Nat.le_refl 64)
  exact ⟨r, hm, hr.trans (congrArg pixelReg (Nat.zero_add i))⟩

end Scan

/-- Each register of R62 is put on the bus by the command that names it. -/
theorem putOnBus_of_mem {reg : Byte} (h : reg ∈ busRegisters) : PutOnBus reg := by
  rcases mem_busRegisters.mp h with (rfl | rfl | rfl | rfl | rfl | rfl) | ⟨i, hi, rfl⟩
  · exact putOnBus_first (w := 0x1000) (i := .setmode 0) rfl nofun
  · exact putOnBus_first (w := 0x1100) (i := .trigrst 0) rfl nofun
  · exact putOnBus_first (w := 0x1200) (i := .setrate 0) rfl nofun
  · exact putOnBus_first (w := 0x1300) (i := .setint 0) rfl nofun
  · exact putOnBus_first (w := 0x1500) (i := .clrstat 0) rfl nofun
  · exact putOnBus_first (w := 0x2100) (i := .rdtherm) rfl nofun
  · exact putOnBus_pixel hi

/-- Settles O54: the invariant bounds the bus trace of every run, and a run after construction reaches each register. -/
theorem busRegistersExactly : Obligations.BusRegistersExactly :=
  ⟨fun _ => pixelReg_toNat, fun _ _ _ hr r hm => legalRequest_reg ((run_inv hr).trace_legal r hm),
    fun _ => putOnBus_of_mem⟩

end Sys2Proof.Machine
end

section
/-! The decoder and the opcode table (`30_encoding.md` R70 to R79): both say which opcode and operand a command word has, so
they accept the same words; an accepted word is the encoding of what it decodes to. -/

namespace Sys2Proof.Machine

section DecoderInverse
variable {w : Word} {i : Instr}

/-- The three classes of R77: an opcode of no row, `INIT` with bit 7 of its operand set, `RDTHERM` with an operand. -/
def IllegalFields (op arg : Byte) : Prop :=
  op ∉ ([0x01, 0x10, 0x11, 0x12, 0x13, 0x15, 0x20, 0x21] : List Byte) ∨
    (op = 0x01 ∧ arg.getLsbD 7 = true) ∨ (op = 0x21 ∧ arg ≠ 0x00)

theorem decode_encode (i : Instr) : decode (encode i) = .ok i := by
  cases i with
  | init addr => simp [encode, decode]
  | setmode v => simp [encode, decode]
  | trigrst v => simp [encode, decode]
  | setrate v => simp [encode, decode]
  | setint v => simp [encode, decode]
  | clrstat v => simp [encode, decode]
  | rdtemps count => simp [encode, decode]
  | rdtherm => rfl

/-- A word with its operand constraint met is the encoding of an instruction, one without is refused: one case per row of R72
and per class of R77. -/
theorem decode_cases (w : Word) :
    (∃ i, w = encode i) ∨ (IllegalFields (opField w) (argField w) ∧ ∃ e, decode w = .error e) := by
  have word : ∀ {op}, opField w = op → w = wordOf op (argField w) := fun ho => by rw [← ho, wordOf_fields]
  by_cases h01 : opField w = 0x01
  · cases hb : (argField w).getLsbD 7 with
    | false => exact .inl ⟨.init (addrField (argField w)), by rw [encode, addrArg_addrField hb]; exact word h01⟩
    | true => exact .inr ⟨.inr (.inl ⟨h01, hb⟩), .initBit7, by simp only [decode, h01, hb]; rfl⟩
  by_cases h10 : opField w = 0x10
  · exact .inl ⟨.setmode _, word h10⟩
  by_cases h11 : opField w = 0x11
  · exact .inl ⟨.trigrst _, word h11⟩
  by_cases h12 : opField w = 0x12
  · exact .inl ⟨.setrate _, word h12⟩
  by_cases h13 : opField w = 0x13
  · exact .inl ⟨.setint _, word h13⟩
  by_cases h15 : opField w = 0x15
  · exact .inl ⟨.clrstat _, word h15⟩
  by_cases h20 : opField w = 0x20
  · exact .inl ⟨.rdtemps _, word h20⟩
  by_cases h21 : opField w = 0x21
  · by_cases ha : argField w = 0x00
    · exact .inl ⟨.rdtherm, by rw [encode, ← ha]; exact word h21⟩
    · exact .inr ⟨.inr (.inr ⟨h21, ha⟩), .thermOperand, by rw [decode, h21]; exact if_neg ha⟩
  · refine .inr ⟨.inl ?_, .opcode (opField w), ?_⟩
    · simp only [List.mem_cons, List.not_mem_nil, h01, h10, h11, h12, h13, h15, h20, h21, or_false, not_false_eq_true]
    · simp only [decode, h01, h10, h11, h12, h13, h15, h20, h21, if_false]

theorem encode_of_decode (h : decode w = .ok i) : encode i = w := by
  rcases decode_cases w with ⟨j, rfl⟩ | ⟨_, e, he⟩
  · rw [decode_encode] at h
    rw [Except.ok.inj h]
  · rw [he] at h
    cases h

end DecoderInverse

/-- Settles O2: each constructor's fields are read back from its word. -/
theorem decodeOfEncode : Obligations.DecodeOfEncode := decode_encode

/-- Settles O3: the word of an accepted opcode and operand is the word they came from. -/
theorem encodeOfDecode : Obligations.EncodeOfDecode := fun _ _ => encode_of_decode

/-- Settles O1: each word by evaluation. -/
theorem specWordsDecode : Obligations.SpecWordsDecode :=
  ⟨rfl, rfl, rfl, rfl, rfl, rfl, rfl, rfl, rfl, rfl, rfl, rfl, rfl, rfl⟩

section IllegalWords
variable {w : Word}

/-- No instruction's word has the fields of an illegal one. -/
theorem encode_fields_legal (i : Instr) : ¬ IllegalFields (opField (encode i)) (argField (encode i)) := by
  cases i <;> simp [encode, IllegalFields]

theorem decode_eq_error_iff : (∃ e, decode w = .error e) ↔ IllegalFields (opField w) (argField w) := by
  rcases decode_cases w with ⟨i, rfl⟩ | ⟨illegal, refused⟩
  · simp [decode_encode, encode_fields_legal]
  · exact iff_of_true refused illegal

theorem decode_accepts_iff : (∃ i, decode w = .ok i) ↔ ¬ IllegalFields (opField w) (argField w) := by
  rw [← decode_eq_error_iff]
  cases decode w <;> simp

end IllegalWords

section Table
variable {w : Word}

/-- The rows of the opcode table, their patterns and masks as an opcode byte and an operand byte. -/
theorem opcodeRows_eq : opcodeRows =
    [⟨"INIT", wordOf 0x01 0x00, wordOf 0xFF 0x80⟩,
      ⟨"SETMODE", wordOf 0x10 0x00, wordOf 0xFF 0x00⟩,
      ⟨"TRIGRST", wordOf 0x11 0x00, wordOf 0xFF 0x00⟩,
      ⟨"SETRATE", wordOf 0x12 0x00, wordOf 0xFF 0x00⟩,
      ⟨"SETINT", wordOf 0x13 0x00, wordOf 0xFF 0x00⟩,
      ⟨"CLRSTAT", wordOf 0x15 0x00, wordOf 0xFF 0x00⟩,
      ⟨"RDTEMPS", wordOf 0x20 0x00, wordOf 0xFF 0x00⟩,
      ⟨"RDTHERM", wordOf 0x21 0x00, wordOf 0xFF 0xFF⟩] := rfl

/-- A word fits a row when both of its fields do. -/
theorem fits_iff {name : String} {op arg opMask argMask : Byte} :
    OpcodeRow.fits ⟨name, wordOf op arg, wordOf opMask argMask⟩ w = true ↔
      opField w &&& opMask = op ∧ argField w &&& argMask = arg := by
  rw [OpcodeRow.fits, beq_iff_eq, ← wordOf_inj, ← wordOf_and, wordOf_fields]

theorem and_byteOnes (b : Byte) : b &&& 0xFF = b := BitVec.and_allOnes

theorem and_bit7_eq_zero (arg : Byte) : arg &&& 0x80 = 0x00 ↔ arg.getLsbD 7 = false := by
  revert arg
  decide

/-- The table in the fields of a word: the opcode of a row, with the operand constraint of `INIT` and `RDTHERM`. -/
theorem wordWellFormed_iff : wordWellFormed w = true ↔
    (opField w = 0x01 ∧ (argField w).getLsbD 7 = false) ∨ opField w = 0x10 ∨ opField w = 0x11 ∨ opField w = 0x12 ∨
    opField w = 0x13 ∨ opField w = 0x15 ∨ opField w = 0x20 ∨ (opField w = 0x21 ∧ argField w = 0x00) := by
  have zero : ∀ b : Byte, b &&& 0x00 = 0x00 := fun _ => BitVec.and_zero
  simp only [wordWellFormed, opcodeRows_eq, List.any_cons, List.any_nil, Bool.or_eq_true, fits_iff, and_byteOnes, zero,
    and_bit7_eq_zero, and_true, Bool.false_eq_true, or_false]

theorem wordWellFormed_encode (i : Instr) : wordWellFormed (encode i) = true := by
  rw [wordWellFormed_iff]
  cases i <;> simp [encode]

theorem decode_accepts_iff_wordWellFormed : (∃ i, decode w = .ok i) ↔ wordWellFormed w = true := by
  constructor
  · rintro ⟨i, h⟩
    rw [← encode_of_decode h]
    exact wordWellFormed_encode i
  · rw [decode_accepts_iff, wordWellFormed_iff]
    rintro (⟨ho, hb⟩ | ho | ho | ho | ho | ho | ho | ⟨ho, ha⟩) <;> simp_all [IllegalFields]

/-- Every row fixes the whole opcode. -/
theorem opField_of_fits {r : OpcodeRow} (hr : r ∈ opcodeRows) (h : r.fits w = true) : opField r.pattern = opField w := by
  have mask : ∀ r ∈ opcodeRows, opField r.mask = 0xFF := by decide
  rw [← eq_of_beq h, ← wordOf_fields w, ← wordOf_fields r.mask, wordOf_and, mask r hr, opField_wordOf, opField_wordOf,
    and_byteOnes]

/-- No two rows have the same opcode, so no word fits two. -/
theorem fits_at_most_one (w : Word) : (opcodeRows.filter (fun r => r.fits w)).length ≤ 1 := by
  have distinct : (opcodeRows.map (fun r => opField r.pattern)).Nodup := by decide
  have same : (opcodeRows.filter (fun r => r.fits w)).map (fun r => opField r.pattern) =
      List.replicate (opcodeRows.filter (fun r => r.fits w)).length (opField w) := by
    refine List.map_eq_replicate_iff.mpr fun r hr => ?_
    obtain ⟨hmem, hfits⟩ := List.mem_filter.mp hr
    exact opField_of_fits hmem hfits
  have fitting := distinct.sublist ((List.filter_sublist (p := fun r => r.fits w)).map _)
  rw [same] at fitting
  exact List.nodup_replicate.mp fitting

end Table

/-- Settles O4: decoder and table agree on the fields of a word, and the rows have different opcodes. -/
theorem decoderAgreesWithTable : Obligations.DecoderAgreesWithTable :=
  ⟨fun _ => decode_accepts_iff_wordWellFormed, fits_at_most_one⟩

section CountLegal

/-- The legal words are four intervals: `INIT`; `SETMODE` to `SETINT`; `CLRSTAT`; `RDTEMPS` and the one word of `RDTHERM`. -/
theorem wordWellFormed_eq_intervals (w : Word) : wordWellFormed w =
    (between 0x0100 0x017F w || (between 0x1000 0x13FF w || (between 0x1500 0x15FF w || between 0x2000 0x2100 w))) := by
  have op : ∀ b : Byte, opField w = b ↔ w.toNat / 256 = b.toNat := fun b => by rw [← BitVec.toNat_inj, opField_toNat]
  have bit7 : (argField w).getLsbD 7 = false ↔ w.toNat % 256 < 128 := by
    rw [← argField_toNat]
    generalize argField w = arg
    revert arg
    decide
  have zero : argField w = 0x00 ↔ w.toNat % 256 = 0 := by rw [← BitVec.toNat_inj, argField_toNat]; rfl
  rw [Bool.eq_iff_iff, wordWellFormed_iff]
  simp only [op, bit7, zero, between, BitVec.reduceToNat, Bool.or_eq_true, Bool.and_eq_true, decide_eq_true_eq]
  omega

theorem countWords_wordWellFormed : countWords wordWellFormed = 1665 := by
  rw [funext wordWellFormed_eq_intervals, countWords_or, countWords_or, countWords_or, countWords_between,
    countWords_between, countWords_between, countWords_between]
  all_goals simp [between] <;> omega

end CountLegal

section Port
variable {s : State} {w : Word} {rest : List Input}

theorem step_command (hi : s.inputs = .command w :: rest) : step s = takeCommand w (setInputs rest s) := by
  rw [step, nextEvent, hi]

theorem takeCommand_illegal {e : Illegal} (hd : decode w = .error e) (hb : s.busy = false) :
    takeCommand w s = .next (answerIllegal (recordCommand w s)) := by
  rw [takeCommand, hd]
  exact whenIdle_idle hb

end Port

/-- Settles O5: the decoder's refusals by class, the step at a refused word, and the legal words counted by intervals. -/
theorem illegalWordsExactly : Obligations.IllegalWordsExactly := by
  refine ⟨fun _ => decode_eq_error_iff, fun s w e rest hb hi hd => ?_, countWords_wordWellFormed, ?_⟩
  · rw [step_command hi, takeCommand_illegal (s := setInputs rest s) hd hb]
    simp only [answerIllegal, respond, recordCommand, setInputs, hb]
  · rw [countWords_not, countWords_wordWellFormed]

/-- Settles O38: the word is taken from the port and noted, then decoded. -/
theorem stepRunsDecodedCommand : Obligations.StepRunsDecodedCommand := fun _ _ _ _ hi hd =>
  (step_command hi).trans (takeCommand_decoded hd _)

end Sys2Proof.Machine
end

section
/-! The messages on the ports (`30_encoding.md` R80, R88, R89): the fields of a packed request, a packed reply and a header,
and what a block does with a reply. -/

namespace Sys2Proof.Machine
open BitVec

/-- A field of one bit is that bit. -/
theorem extractLsb'_one {n : Nat} (x : BitVec n) (i : Nat) : x.extractLsb' i 1 = BitVec.ofBool (x.getLsbD i) := by
  refine eq_of_getLsbD_eq fun j hj => ?_
  obtain rfl : j = 0 := by omega
  simp

section RequestFields
variable (r : Request)

theorem request_pack_kind : r.pack.extractLsb' 24 1 = r.kind.code := extractLsb'_append_eq_left

theorem request_pack_le : r.pack.extractLsb' 23 1 = BitVec.ofBool r.le := by
  rw [Request.pack, extractLsb'_append_eq_of_add_le (by decide)]
  exact extractLsb'_append_eq_left

theorem request_pack_dev : r.pack.extractLsb' 16 7 = r.dev := by
  rw [Request.pack, extractLsb'_append_eq_of_add_le (by decide), extractLsb'_append_eq_of_add_le (by decide)]
  exact extractLsb'_append_eq_left

theorem request_pack_reg : r.pack.extractLsb' 8 8 = r.reg := by
  rw [Request.pack, extractLsb'_append_eq_of_add_le (by decide), extractLsb'_append_eq_of_add_le (by decide),
    extractLsb'_append_eq_of_add_le (by decide)]
  exact extractLsb'_append_eq_left

theorem request_pack_val : r.pack.extractLsb' 0 8 = r.val := by
  rw [Request.pack, extractLsb'_append_eq_of_add_le (by decide), extractLsb'_append_eq_of_add_le (by decide),
    extractLsb'_append_eq_of_add_le (by decide)]
  exact extractLsb'_append_eq_right

/-- The two bits that give a request its form. -/
theorem request_pack_form : r.pack.extractLsb' 23 2 = r.kind.code ++ BitVec.ofBool r.le := by
  rw [← request_pack_kind, ← request_pack_le]
  exact (extractLsb'_append_extractLsb'_eq_extractLsb' (len₁ := 1) (len₂ := 1) rfl).symm

theorem kind_code_eq (k : AccessKind) : k.code = BitVec.ofBool (k == .readWord) := by
  cases k <;> rfl

theorem request_pack_bit24 : r.pack.getLsbD 24 = (r.kind == .readWord) := by
  rw [← ofBool_eq_iff_eq, ← extractLsb'_one, request_pack_kind, kind_code_eq]

theorem request_pack_bit23 : r.pack.getLsbD 23 = r.le := by
  rw [← ofBool_eq_iff_eq, ← extractLsb'_one, request_pack_le]

theorem writeByte_pack_form (dev : DevAddr) (reg val : Byte) :
    (writeByte dev reg val).pack.extractLsb' 23 2 = 0b00 := by
  rw [request_pack_form]
  exact (by decide : (0#1 ++ 0#1 : BitVec 2) = 0b00)

theorem readWord_pack_form (dev : DevAddr) (reg : Byte) : (readWord dev reg).pack.extractLsb' 23 2 = 0b11 := by
  rw [request_pack_form]
  exact (by decide : (1#1 ++ 1#1 : BitVec 2) = 0b11)

end RequestFields

/-- A request that the command in progress names is a write or a read of its device. -/
theorem nextRequest_form {s : State} {r : Request} (h : nextRequest s = some r) :
    r = writeByte s.devAddr r.reg r.val ∨ r = readWord s.devAddr r.reg := by
  rw [nextRequest] at h
  split at h
  next q hq =>
    rcases sequenceOf_cases hq with ⟨_, rfl⟩ | ⟨_, rfl⟩ | ⟨_, rfl⟩ | ⟨_, rfl⟩
    · simp only [initSequence, initRequest] at h
      split at h <;> cases h
      exact .inl rfl
    · simp only [configSequence, configRequest] at h
      split at h <;> cases h
      exact .inl rfl
    · rw [(scanRequest_eq_some h).2]
      exact .inr rfl
    · simp only [thermSequence, thermRequest] at h
      split at h <;> cases h
      exact .inr rfl
  · cases h

/-- Settles O6: the fields of the packed word one by one, and the requests of each sequence. -/
theorem requestPacking : Obligations.RequestPacking :=
  ⟨fun r => ⟨request_pack_bit24 r, request_pack_bit23 r, request_pack_dev r, request_pack_reg r, request_pack_val r⟩,
    fun _ _ _ => ⟨writeByte_pack_form _ _ _, rfl, rfl, rfl, readWord_pack_form _ _, rfl, rfl, rfl⟩,
    fun _ _ => nextRequest_form, rfl, rfl⟩

section ReplyFields

theorem reply_pack_data (r : Reply) : r.pack.extractLsb' 0 16 = r.data := extractLsb'_append_eq_right

theorem reply_pack_err (r : Reply) : r.pack.getLsbD 16 = r.err := by
  rw [← ofBool_eq_iff_eq, ← extractLsb'_one]
  exact extractLsb'_append_eq_left

theorem reply_unpack_pack (r : Reply) : Reply.unpack r.pack = r := by
  rw [Reply.unpack, reply_pack_err, reply_pack_data]

theorem reply_pack_unpack (v : BitVec 17) : (Reply.unpack v).pack = v := by
  rw [Reply.pack, Reply.unpack, ← extractLsb'_one]
  exact (extractLsb'_append_extractLsb'_eq_extractLsb' (len₁ := 16) (len₂ := 1) rfl).trans extractLsb'_eq_self

end ReplyFields

section Answers
variable {s : State} {a b : Reply}

/-- Closing a request reads the flag of its answer only. -/
theorem closeRequest_congr (h : a.err = b.err) (r : Request) (s : State) : closeRequest r a s = closeRequest r b s := by
  rw [closeRequest, closeRequest, h]

theorem answer_err_ignores_data {q : Sequence} (ha : a.err = true) (hb : b.err = true) : answer q a s = answer q b s := by
  cases hp : s.pending with
  | none => rw [answer, answer, hp]
  | some r => rw [answer_err hp ha, answer_err hp hb, closeRequest_congr (ha.trans hb.symm)]

/-- A command whose *Answer Ok* is the same for every word does not see the data of a successful answer. -/
theorem answer_ok_ignores_data {q : Sequence} (hq : ∀ v w, q.answerOk v = q.answerOk w) (ha : a.err = false)
    (hb : b.err = false) : answer q a s = answer q b s := by
  cases hp : s.pending with
  | none => rw [answer, answer, hp]
  | some r => rw [answer_ok hp ha, answer_ok hp hb, closeRequest_congr (ha.trans hb.symm), hq a.data b.data]

theorem scanAnswer_raw (w : Word) (s : State) : (scanAnswer w s).raw = w := by
  cases hv : violates (pixMag w) with
  | true =>
    rw [scanAnswer_range hv]
    rfl
  | false => rw [scanAnswer_store hv]

/-- A command whose *Answer Ok* puts the word in `RAW` does so with the data of a successful answer. -/
theorem answer_ok_raw {q : Sequence} (hq : ∀ w s, (q.answerOk w s).raw = w) (ha : a.err = false)
    (hp : s.pending.isSome = true) : (answer q a s).raw = a.data := by
  obtain ⟨r, hr⟩ := Option.isSome_iff_exists.mp hp
  rw [answer_ok hr ha, hq]

end Answers

/-- Settles O7: the two fields one by one, and what each sequence does with the data of an answer. -/
theorem replyPacking : Obligations.ReplyPacking :=
  ⟨fun r => ⟨reply_pack_err r, reply_pack_data r, reply_unpack_pack r⟩, reply_pack_unpack,
    fun _ _ _ _ => answer_err_ignores_data,
    fun _ _ _ ha hb => ⟨answer_ok_ignores_data (fun _ _ => rfl) ha hb, answer_ok_ignores_data (fun _ _ => rfl) ha hb⟩,
    fun _ _ ha hp => ⟨answer_ok_raw scanAnswer_raw ha hp, answer_ok_raw (fun _ _ => rfl) ha hp⟩⟩

/-- Settles O8: each header by evaluation. -/
theorem headerTable : Obligations.HeaderTable := ⟨rfl, rfl, rfl, rfl, rfl, rfl, rfl, rfl, rfl, rfl⟩

end Sys2Proof.Machine
end

section
/-! Every command gets one response, when it ends (`30_encoding.md` R80): one induction over the events a command is carried
through, with the accumulator of a scan beside it. -/

namespace Sys2Proof.Machine
open Sys2Proof.Claims

section Header
variable (r : Response)

theorem hdr_status : r.hdr.extractLsb' 12 4 = r.status.code := BitVec.extractLsb'_append_eq_left

theorem hdr_zero : r.hdr.extractLsb' 7 5 = 0 := by
  rw [Response.hdr, BitVec.extractLsb'_append_eq_of_add_le (by decide)]
  exact BitVec.extractLsb'_append_eq_left

theorem hdr_len : r.hdr.extractLsb' 0 7 = r.len := by
  rw [Response.hdr, BitVec.extractLsb'_append_eq_of_add_le (by decide)]
  exact BitVec.extractLsb'_append_eq_right

variable {r}

theorem legalResponse_length (h : legalResponse r = true) : r.data.length ≤ 64 := by
  have empty : r.data.isEmpty = true → r.data.length ≤ 64 := fun he => by simp [List.isEmpty_iff.mp he]
  rw [legalResponse] at h
  split at h
  · simp only [Bool.and_eq_true, decide_eq_true_eq] at h
    exact h.1.1
  · simp only [Bool.and_eq_true, decide_eq_true_eq] at h
    omega
  all_goals exact empty h

theorem len_toNat (h : r.data.length ≤ 64) : r.len.toNat = r.data.length := by
  rw [Response.len, BitVec.toNat_ofNat]
  omega

end Header

section Response
variable {s t : State} {q : Sequence} {count : Byte}

theorem responses_of_busy (h : RespondsOnce s t) (hb : t.busy = true) : t.responses = s.responses := by
  rcases h with ⟨_, hr⟩ | ⟨hidle, _⟩
  · exact hr
  · rw [hb] at hidle
    cases hidle

/-- A command that has had no response yet ends with one that is legal and holds the first entries of `ACC`. -/
theorem respondsOnce_of_end {st : Status} {data : List Word} (hb : t.busy = false)
    (hr : t.responses = s.responses ++ [{ status := st, data := data }])
    (legal : legalResponse { status := st, data := data } = true) (words : data = accPrefix data.length t) :
    RespondsOnce s t :=
  .inr ⟨hb, _, hr, legal, words⟩

/-- A prefix of `ACC` is as long a prefix as it says. -/
theorem accPrefix_self_length (n : Nat) (s : State) : accPrefix n s = accPrefix (accPrefix n s).length s := by
  simp [accPrefix]

/-- A response without data words, whose status is any. -/
theorem respondsOnce_respond_nil (st : Status) (hr : t.responses = s.responses) :
    RespondsOnce s (respond st [] t) :=
  respondsOnce_of_end rfl (congrArg (· ++ _) hr) (by cases st <;> rfl) rfl

theorem ScanSoFar.of_busy (h : ScanSoFar s t count) (hb : t.busy = true) : ScanGoing s t count := by
  rcases h with h | ⟨hidle, _⟩
  · exact h
  · rw [hb] at hidle
    cases hidle

/-- From `s` the command with the small steps `q` and the operand `arg` has gone on to `t`, or has ended there with its one
response. -/
structure Answering (q : Sequence) (arg : Byte) (s t : State) : Prop where
  sequence : sequenceOf t.op = some q
  scan : t.op = 0x20 → ScanSoFar s t arg
  responds : RespondsOnce s t

theorem settle_responds (h : Answering q count s t) : RespondsOnce s (settle q t) := by
  rcases settle_cases q t with ⟨e, _⟩ | ⟨r, hb, _, _, e⟩ | ⟨hb, _, _, hd, e⟩ <;> rw [e]
  · exact h.responds
  · exact .inl ⟨hb, responses_of_busy h.responds hb⟩
  · have hr := responses_of_busy h.responds hb
    rcases sequenceOf_cases h.sequence with ⟨_, rfl⟩ | ⟨_, rfl⟩ | ⟨ho, rfl⟩ | ⟨_, rfl⟩
    · exact respondsOnce_respond_nil .ok (t := { t with phase := .configured }) hr
    · cases hd
    · have going := (h.scan ho).of_busy hb
      have window := going.window
      rw [show t.step.toNat = t.arg.toNat from eq_of_beq hd] at window
      obtain ⟨therm, pixel⟩ := scan_words_legal window
      exact respondsOnce_of_end rfl (congrArg (· ++ _) hr) (by simp [legalResponse, accPrefix_length_le, therm, pixel])
        (accPrefix_self_length _ t)
    · cases hd

theorem scanAnswer_responds (w : Word) (h : ScanGoing s t count) (hlt : t.step.toNat < count.toNat) :
    RespondsOnce s (scanAnswer w t) := by
  cases hv : violates (pixMag w) with
  | true =>
    rw [scanAnswer_range hv]
    have hmax := h.count_le
    have hlen : (accPrefix t.step.toNat t).length = t.step.toNat := accPrefix_length (by omega) t
    exact respondsOnce_of_end rfl (congrArg (· ++ _) h.responses)
      (by simp only [legalResponse, hlen, (scan_words_legal h.window).2, Bool.and_true, decide_eq_true_eq]; omega)
      (accPrefix_self_length _ t)
  | false =>
    rw [scanAnswer_store hv]
    exact .inl ⟨h.busy, h.responses⟩

theorem thermAnswer_responds (w : Word) (hr : t.responses = s.responses) : RespondsOnce s (thermAnswer w t) := by
  rw [thermAnswer_eq]
  exact respondsOnce_of_end rfl (congrArg (· ++ _) hr) (by simp [legalResponse, inThermRange_thWord])
    (accPrefix_succ_writeAcc 0 _ t).symm

theorem answer_responds (hb : t.busy = true) (ans : Reply) (h : Answering q count s t) :
    RespondsOnce s (answer q ans t) := by
  cases hp : t.pending with
  | none =>
    rw [answer, hp]
    exact h.responds
  | some r =>
    have hb' : (closeRequest r ans t).busy = true := by simpa using hb
    have hr : (closeRequest r ans t).responses = s.responses := by simpa using responses_of_busy h.responds hb
    cases he : ans.err with
    | true =>
      rw [answer_err hp he]
      exact respondsOnce_respond_nil .transport hr
    | false =>
      rw [answer_ok hp he]
      rcases sequenceOf_cases h.sequence with ⟨_, rfl⟩ | ⟨_, rfl⟩ | ⟨ho, rfl⟩ | ⟨_, rfl⟩
      · exact .inl ⟨hb', hr⟩
      · exact respondsOnce_respond_nil .ok (t := { closeRequest r ans t with step := 1 }) hr
      · have going := (h.scan ho).of_busy hb
        exact scanAnswer_responds _ (closeRequest_scanGoing going r ans)
          (by simpa using going.step_lt (by simp [hp]))
      · exact thermAnswer_responds _ hr

theorem Answering.eq_scanSequence (h : Answering q count s t) (ho : t.op = 0x20) : q = scanSequence := by
  have hq := h.sequence
  rw [ho] at hq
  exact (Option.some.inj hq).symm

theorem settle_answering (h : Answering q count s t) : Answering q count s (settle q t) := by
  have hop := settle_op h.sequence
  refine ⟨hop ▸ h.sequence, fun ho => ?_, settle_responds h⟩
  rw [hop] at ho
  rw [h.eq_scanSequence ho]
  exact settle_scanSoFar (h.scan ho)

theorem answer_answering (ans : Reply) (hb : t.busy = true) (h : Answering q count s t) :
    Answering q count s (answer q ans t) := by
  have hop := answer_op h.sequence ans
  refine ⟨hop ▸ h.sequence, fun ho => ?_, answer_responds hb ans h⟩
  rw [hop] at ho
  rw [h.eq_scanSequence ho]
  exact answer_scanSoFar ans hb (h.scan ho)

/-- Carrying a command on through its events ends it with one response or leaves it without. -/
theorem carryOut_responds (h : Answering q count s t) : RespondsOnce s (carryOut q t) :=
  (drive_keeps (P := Answering q count s)
    (fun _ _ hu => ⟨hu.sequence, fun ho => (hu.scan ho).imp (fun going => { going with }) id, hu.responds⟩)
    (fun _ => settle_answering) (fun ans _ => answer_answering ans) t.inputs t h).responds

/-- Acceptance answers a command at once or latches it; a scan is latched with a legal count. -/
theorem accept_responds (i : Instr) (s : State) : RespondsOnce s (accept i s) ∧
    ((accept i s).busy = true → (accept i s).op = 0x20 → ScanSoFar s (accept i s) (accept i s).arg) := by
  rcases accept_forms i with ⟨addr, rfl⟩ | ⟨noHandle, forms⟩
  · exact ⟨.inl ⟨rfl, rfl⟩, fun _ ho => absurd ho (by decide : (0x01 : Byte) ≠ 0x20)⟩
  cases hp : s.phase with
  | uninit =>
    rw [noHandle s hp]
    exact ⟨respondsOnce_respond_nil .notConf rfl, nofun⟩
  | configured =>
    rcases forms with badCount | ⟨op, arg, _, latched⟩
    · rw [badCount s hp]
      exact ⟨respondsOnce_respond_nil .badCount rfl, nofun⟩
    · obtain ⟨e, legal⟩ := latched s hp
      rw [e]
      refine ⟨.inl ⟨rfl, rfl⟩, fun _ ho => ?_⟩
      obtain rfl : op = 0x20 := ho
      obtain ⟨_, hmin, hmax⟩ : s.phase = .configured ∧ 1 ≤ arg.toNat ∧ arg.toNat ≤ 64 := by
        simpa using (commandInFlight_iff _).mp legal
      exact .inl ⟨rfl, rfl, rfl, hmax, Nat.zero_le _, fun _ => hmin, nofun⟩

theorem exec_responds {i : Instr} (h : exec i s = .next t) : RespondsOnce s t := by
  obtain ⟨hb, rfl⟩ := exec_eq_next.mp h
  obtain ⟨responds, scan⟩ := accept_responds i s
  cases ha : (accept i s).busy with
  | false => rwa [carryOut_idle _ ha]
  | true => exact carryOut_responds ⟨accept_sequence i s hb ha, scan ha, responds⟩

theorem takeCommand_responds {w : Word} (h : takeCommand w s = .next t) : RespondsOnce s t := by
  rw [takeCommand] at h
  split at h
  · exact exec_responds (s := recordCommand w s) h
  · obtain ⟨_, rfl⟩ := whenIdle_eq_next.mp h
    exact respondsOnce_respond_nil .illegal (t := recordCommand w s) rfl

theorem hardReset_quiet (s : State) : (hardReset s).busy = false ∧ (hardReset s).responses = s.responses := by
  cases hp : s.pending <;> rw [hardReset, hp] <;> exact ⟨rfl, rfl⟩

/-- A step with a command in progress carries it on, unless a reset comes first. -/
theorem step_busy_responds (h : BlockInv s) (hs : step s = .next t) (hb : s.busy = true)
    (hi : s.inputs.head? ≠ some .reset) : RespondsOnce s t := by
  rcases step_cases hs with ⟨rest, hr, _⟩ | ⟨w, rest, _, hw⟩ | ⟨hidle, _⟩ | ⟨_, q, hq, rfl⟩
  · simp [hr] at hi
  · have hidle : s.busy = false := (takeCommand_cases hw).1
    simp [hb] at hidle
  · simp [hb] at hidle
  · exact carryOut_responds ⟨hq, fun ho => .inl (scanGoing_of_inv h hb ho), .inl ⟨hb, rfl⟩⟩

theorem step_command_responds {w : Word} (hs : step s = .next t) (hi : s.inputs.head? = some (.command w)) :
    RespondsOnce s t := by
  obtain ⟨rest, hi⟩ := List.head?_eq_some_iff.mp hi
  rw [step_command hi] at hs
  exact takeCommand_responds (s := setInputs rest s) hs

/-- An idle block with no command word to take responds to nothing. -/
theorem step_idle_quiet (hs : step s = .next t) (hb : s.busy = false)
    (hi : ∀ w, s.inputs.head? ≠ some (.command w)) : t.busy = false ∧ t.responses = s.responses := by
  rcases step_cases hs with ⟨rest, _, rfl⟩ | ⟨w, rest, hw, _⟩ | ⟨_, ins, rfl⟩ | ⟨hbusy, _⟩
  · exact hardReset_quiet (setInputs rest s)
  · simp [hw] at hi
  · exact ⟨hb, rfl⟩
  · simp [hb] at hbusy

theorem step_reset_quiet (hs : step s = .next t) (hi : s.inputs.head? = some .reset) :
    t.busy = false ∧ t.responses = s.responses := by
  obtain ⟨rest, hi⟩ := List.head?_eq_some_iff.mp hi
  rw [step, nextEvent, hi] at hs
  cases hs
  exact hardReset_quiet (setInputs rest s)

end Response

/-- Settles O9: each command is carried from its acceptance, or from where the invariant has it, to at most one response; the
header's fields are read off its packed form. -/
theorem oneResponsePerCommand : Obligations.OneResponsePerCommand := by
  refine ⟨fun _ _ _ => exec_responds, fun s t h hs => ⟨step_busy_responds h hs, fun _ _ => step_command_responds hs,
    step_idle_quiet hs, step_reset_quiet hs⟩, fun r h => ?_⟩
  have hlen := legalResponse_length h
  exact ⟨rfl, hdr_status r, hdr_zero r, by rw [hdr_len, len_toNat hlen], hlen⟩

end Sys2Proof.Machine
end

section
/-! What a host reads out of a response (`30_encoding.md` R82, R83), and what it writes to the assembler (R84 to R86). -/

namespace Sys2Proof.Machine

section HostView

theorem pixelCelsius_pixWord {w : Word} (h : accepted w = true) :
    pixelCelsius (pixWord w) = (pixMag w : Rat) * (1 / 4) := by
  have hv : violates (pixMag w) = false := by simpa [accepted] using h
  obtain ⟨hmin, hmax⟩ := violates_eq_false.mp hv
  rw [pixelCelsius, pixWord, outWord_toInt (by omega) (by omega)]

theorem map_pixelCelsius_pixWord {words : List Word} (h : ∀ w ∈ words, accepted w = true) :
    (words.map pixWord).map pixelCelsius = words.map (fun w => (pixMag w : Rat) * (1 / 4)) := by
  rw [List.map_map]
  exact List.map_congr_left fun w hw => pixelCelsius_pixWord (h w hw)

theorem thermCelsius_thWord (w : Word) : thermCelsius (thWord w) = (thMag w : Rat) * (1 / 16) := by
  have range : -2047 ≤ thMag w ∧ thMag w ≤ 2047 := by
    rw [thMag_eq]
    split <;> omega
  rw [thermCelsius, thWord, outWord_toInt (by omega) (by omega)]

/-- A flag is read from the statuses `OK` and `RANGE` only, and it is the status `RANGE`. -/
theorem errored_of_readTemperatures {r : Response} {e : Bool} {values : List Rat}
    (h : readTemperatures r = some (e, values)) : e = r.errored := by
  rw [readTemperatures] at h
  rw [Response.errored]
  split at h <;> cases h
  next hst =>
    rw [hst]
    rfl
  next hst =>
    rw [hst]
    rfl

end HostView

/-- Settles O22: each output word holds its sample's magnitude exactly. -/
theorem hostReadsFrame : Obligations.HostReadsFrame := by
  refine ⟨fun words h => ⟨?_, ?_, rfl⟩, fun _ _ _ => errored_of_readTemperatures, fun w => ?_⟩
  · exact congrArg (fun values => some (false, values)) (map_pixelCelsius_pixWord h)
  · exact congrArg (fun values => some (true, values)) (map_pixelCelsius_pixWord h)
  · exact congrArg some (thermCelsius_thWord w)

section Assembler

theorem setterByte_toNat (n : Int) : ((setterByte n).toNat : Int) = n % 256 := by
  rw [setterByte, BitVec.toNat_ofInt]
  exact Int.toNat_of_nonneg (Int.emod_nonneg n (by decide))

end Assembler

/-- Settles O10: each line by evaluation, which stops at the name of an open byte; a setter's operand by its remainder. -/
theorem assemblerReadsLines : Obligations.AssemblerReadsLines :=
  ⟨rfl, rfl, rfl, rfl, rfl, rfl, rfl, rfl, rfl, rfl, rfl, rfl, rfl, rfl, rfl, rfl, rfl, rfl, setterByte_toNat⟩

/-- Settles O11: the assembled word and the two first words of `PROBE` by evaluation, its end by the status it stops at. -/
theorem pseudoInstructions : Obligations.PseudoInstructions := by
  refine ⟨rfl, rfl, rfl, fun st h => ?_⟩
  cases st with
  | transport => exact absurd rfl h
  | _ => rfl

end Sys2Proof.Machine
end

section
/-! Construction (`40_construction.md` R100 to R105): the state of an `INIT` whose first writes were answered `Ok`, what
the next answer makes of it, and what `INIT` leaves alone whatever the events. -/

namespace Sys2Proof.Machine
open Sys2Proof.Claims

section Writes
variable {addr : DevAddr} {s : State} {k : Nat} {r : Request} {rest : List Input}

/-- `INIT addr` accepted in `s`, with the first `k` writes of its table issued and answered `Ok`. -/
def afterWrites (addr : DevAddr) (k : Nat) (s : State) : State :=
  { acceptInit addr s with
    step := BitVec.ofNat 7 k
    pending := none
    trace := s.trace ++ (initWrites addr).take k
    delivered := s.delivered ++ (initWrites addr).take k }

theorem afterWrites_zero (hp : s.pending = none) : afterWrites addr 0 s = acceptInit addr s := by
  simp [afterWrites, acceptInit, latch, hp]

theorem afterWrites_succ (hr : (initWrites addr)[k]? = some r) : afterWrites addr (k + 1) s =
    { afterWrites addr k s with
      step := (afterWrites addr k s).step + 1
      trace := (afterWrites addr k s).trace ++ [r]
      delivered := (afterWrites addr k s).delivered ++ [r] } := by
  simp [afterWrites, List.take_add_one, hr, BitVec.ofNat_add]

theorem initWrites_getElem? (addr : DevAddr) (hk : k < 4) : ∃ r, (initWrites addr)[k]? = some r :=
  ⟨_, List.getElem?_eq_getElem hk⟩

/-- The next write goes on the bus and takes the answer. -/
theorem drive_afterWrites (hr : (initWrites addr)[k]? = some r) (ans : Reply) :
    drive initSequence (.reply ans :: rest) (afterWrites addr k s) = drive initSequence rest
      (answer initSequence ans (send r (setInputs (.reply ans :: rest) (afterWrites addr k s)))) := by
  have hk : k < 4 := (List.getElem?_eq_some_iff.mp hr).1
  have hstep : (afterWrites addr k s).step.toNat = k := Nat.mod_eq_of_lt (by omega)
  refine drive_reply_issue ans rfl rfl ((initRequest_eq _).trans ?_)
  rw [setInputs_step, hstep]
  exact hr

/-- *Answer Ok* (R105): one write more is done. -/
theorem drive_afterWrites_ok (hk : k < 4) (w : Word) : drive initSequence (okReply w :: rest) (afterWrites addr k s) =
    drive initSequence rest (afterWrites addr (k + 1) s) := by
  obtain ⟨r, hr⟩ := initWrites_getElem? addr hk
  rw [okReply, drive_afterWrites hr, answer_ok (send_pending _ _) rfl, closeRequest_ok rfl,
    ← drive_setInputs _ _ (okReply w :: rest) (afterWrites addr (k + 1) s), afterWrites_succ hr]
  rfl

theorem drive_afterWrites_oks (oks : List Word) (hk : k + oks.length ≤ 4) :
    drive initSequence (oks.map okReply ++ rest) (afterWrites addr k s) =
      drive initSequence rest (afterWrites addr (k + oks.length) s) := by
  induction oks generalizing k with
  | nil => rfl
  | cons w oks ih =>
    rw [List.length_cons] at hk ⊢
    rw [List.map_cons, List.cons_append, drive_afterWrites_ok (by omega), ih (by omega), Nat.add_assoc, Nat.add_comm 1]

/-- *Answer Err* (R102): the command ends there, with no later write. -/
theorem drive_afterWrites_err (hr : (initWrites addr)[k]? = some r) (w : Word) :
    drive initSequence (errReply w :: rest) (afterWrites addr k s) = setInputs rest (respond .transport []
      (drawDelivery r { afterWrites addr k s with trace := (afterWrites addr k s).trace ++ [r] })) := by
  rw [errReply, drive_afterWrites hr, answer_err (send_pending _ _) rfl, drive_idle (respond_busy _ _ _),
    closeRequest_err rfl]
  rfl

/-- A command that ends when it settles takes no event, unless a reset comes first. -/
theorem drive_of_settle_idle {q : Sequence} (hr : rest.head? ≠ some .reset)
    (hb : (settle q (setInputs rest s)).busy = false) : drive q rest s = settle q (setInputs rest s) := by
  cases rest with
  | nil => rfl
  | cons i rest =>
    cases i with
    | reset => exact absurd rfl hr
    | command w => rfl
    | reply ans => simp [drive, hb]
    | staleReply ans => simp [drive, hb]
    | delay => simp [drive, hb]

/-- *Finish* (R105) after the four writes. -/
theorem drive_afterWrites_finish (hr : rest.head? ≠ some .reset) :
    drive initSequence rest (afterWrites addr 4 s) =
      respond .ok [] { setInputs rest (afterWrites addr 4 s) with phase := .configured } := by
  have finished := settle_finish (q := initSequence) (s := setInputs rest (afterWrites addr 4 s)) rfl rfl rfl rfl
  exact (drive_of_settle_idle hr (by rw [finished]; rfl)).trans finished

/-- An idle block carries `INIT` out from its first write. -/
theorem exec_init (hidle : Idle s) :
    exec (.init addr) s = .next (drive initSequence s.inputs (afterWrites addr 0 s)) := by
  obtain ⟨hb, hp⟩ := hidle
  rw [afterWrites_zero hp]
  exact exec_eq_next.mpr ⟨hb, rfl⟩

/-- The write answered `Err` is delivered or not, after those answered `Ok`. -/
theorem take_add_draw (hr : (initWrites addr)[k]? = some r) (drawn : Bool) (before : List Request) :
    before ++ (initWrites addr).take (k + if drawn then 1 else 0) =
      if drawn then before ++ (initWrites addr).take k ++ [r] else before ++ (initWrites addr).take k := by
  cases drawn with
  | false => rfl
  | true => simp [List.take_add_one, hr]

end Writes

/-- Settles O23: four writes answered `Ok`, then *Finish*. -/
theorem initBuildsHandle : Obligations.InitBuildsHandle := by
  intro s addr w0 w1 w2 w3 rest hidle hin hr
  have writes := drive_afterWrites_oks (addr := addr) (s := s) (k := 0) (rest := rest) [w0, w1, w2, w3] (Nat.le_refl 4)
  rw [exec_init hidle, hin]
  refine congrArg _ ((writes.trans (drive_afterWrites_finish hr)).trans ?_)
  rw [hidle.1, hidle.2]
  rfl

/-- Settles O24: the writes answered `Ok`, then the one answered `Err`. -/
theorem initFailsAtFirstErr : Obligations.InitFailsAtFirstErr := by
  intro s addr oks w rest hidle hlen hin
  obtain ⟨r, hr⟩ := initWrites_getElem? addr (show oks.length < 4 by omega)
  rw [exec_init hidle, hin, drive_afterWrites_oks oks (by omega), Nat.zero_add, drive_afterWrites_err hr,
    take_add_draw hr, List.take_add_one, hr, Option.toList_some, ← List.append_assoc, hidle.1, hidle.2]
  rfl

section Frame
variable {addr : DevAddr} {s t : State}

/-- From `s` the command `INIT addr` has gone on to `t`, or has ended there: the bus trace has grown by the writes before
`STEP` and the one outstanding. -/
structure Constructing (addr : DevAddr) (s t : State) : Prop where
  devAddr : t.devAddr = addr
  op : t.op = 0x01
  arg : t.arg = addrArg addr
  acc : t.acc = s.acc
  raw : t.raw = s.raw
  mag : t.mag = s.mag
  trace : ∃ k ≤ 4, t.trace = s.trace ++ (initWrites addr).take k ∧
    (t.busy = true → k = t.step.toNat + t.pending.toList.length)

theorem acceptInit_constructing (addr : DevAddr) (hp : s.pending = none) : Constructing addr s (acceptInit addr s) :=
  ⟨rfl, rfl, rfl, rfl, rfl, rfl, 0, by omega, by simp, fun _ => by simp [hp]⟩

theorem settle_constructing (h : Constructing addr s t) : Constructing addr s (settle initSequence t) := by
  obtain ⟨k, hk, htrace, hcount⟩ := h.trace
  rcases settle_cases initSequence t with ⟨e, _⟩ | ⟨r, hb, hp, hr, e⟩ | ⟨_, _, _, _, e⟩ <;> rw [e]
  · exact h
  · obtain rfl : k = t.step.toNat := by simpa [hp] using hcount hb
    have next : (initWrites addr)[t.step.toNat]? = some r := by
      rw [← h.devAddr, ← initRequest_eq]
      exact hr
    exact { h with
      trace := ⟨_, initRequest_eq_some hr, by simp [htrace, List.take_add_one, next], fun _ => rfl⟩ }
  · exact { h with trace := ⟨k, hk, htrace, nofun⟩ }

/-- The answer closes the outstanding write: it ends the command, or makes it the last one before `STEP`. -/
theorem answer_constructing (ans : Reply) (hb : t.busy = true) (h : Constructing addr s t) :
    Constructing addr s (answer initSequence ans t) := by
  cases hp : t.pending with
  | none =>
    rw [answer, hp]
    exact h
  | some r =>
    obtain ⟨k, hk, htrace, hcount⟩ := h.trace
    have hlast : k = t.step.toNat + 1 := by simpa [hp] using hcount hb
    have closed : Constructing addr s (respond .transport [] (closeRequest r ans t)) :=
      ⟨by simp [h.devAddr], by simp [h.op], by simp [h.arg], by simp [h.acc], by simp [h.raw], by simp [h.mag],
        k, hk, by simpa using htrace, nofun⟩
    cases he : ans.err with
    | true => rwa [answer_err hp he]
    | false =>
      have hstep : (t.step + 1).toNat = k := by rw [hlast, step_succ (by omega)]
      rw [answer_ok hp he]
      exact { closed with
        trace := ⟨k, hk, by simpa [initSequence] using htrace, fun _ => by simpa [initSequence] using hstep.symm⟩ }

theorem exec_init_constructing (hp : s.pending = none) (h : exec (.init addr) s = .next t) : Constructing addr s t := by
  obtain ⟨_, rfl⟩ := exec_eq_next.mp h
  exact drive_keeps (P := Constructing addr s) (fun _ _ hu => { hu with }) (fun _ => settle_constructing)
    (fun ans _ => answer_constructing ans) _ _ (acceptInit_constructing addr hp)

end Frame

/-- Settles O33: what settling and answering keep, along the events `INIT` is carried through. -/
theorem initFrame : Obligations.InitFrame := by
  intro addr s t hp h
  obtain ⟨hdev, hop, harg, hacc, hraw, hmag, k, hk, htrace, _⟩ := exec_init_constructing hp h
  obtain ⟨_, rfl⟩ := exec_eq_next.mp h
  exact ⟨⟨k, hk, htrace⟩, hdev, hop, harg, hacc, hraw, hmag, carryOut_inputs (fun _ => rfl) (acceptInit addr s)⟩

end Sys2Proof.Machine
end

section
/-! The configuration commands (`41_configuration.md` R110 to R118): five commands of one shape, each the write of its
operand to its own register; what the answer to the write leaves, and what no event makes them touch. -/

namespace Sys2Proof.Machine
open Sys2Proof.Claims

/-- The command `mk` of opcode `op` has the shape the five share, and `reg` is the register it writes. -/
structure ConfiguresRegister (mk : Byte → Instr) (op reg : Byte) : Prop where
  meaning : ∀ v s, exec (mk v) s = whenIdle s (carryOut configSequence (acceptConfig op v s))
  register : configReg op = reg

theorem setmode_configuresRegister : ConfiguresRegister .setmode 0x10 0x00 := ⟨fun _ _ => rfl, rfl⟩

theorem trigrst_configuresRegister : ConfiguresRegister .trigrst 0x11 0x01 := ⟨fun _ _ => rfl, rfl⟩

theorem setrate_configuresRegister : ConfiguresRegister .setrate 0x12 0x02 := ⟨fun _ _ => rfl, rfl⟩

theorem setint_configuresRegister : ConfiguresRegister .setint 0x13 0x03 := ⟨fun _ _ => rfl, rfl⟩

theorem clrstat_configuresRegister : ConfiguresRegister .clrstat 0x15 0x05 := ⟨fun _ _ => rfl, rfl⟩

section Effect
variable {mk : Byte → Instr} {op reg v : Byte} {s : State} {rest : List Input}

/-- With a handle, the write goes on the bus and takes the answer (R118). -/
theorem exec_config_answer (hm : ConfiguresRegister mk op reg) (hidle : Idle s) (hph : s.phase = .configured) (ans : Reply)
    (hin : s.inputs = .reply ans :: rest) :
    exec (mk v) s = .next (drive configSequence rest (answer configSequence ans
      (send (writeByte s.devAddr reg v) (setInputs (.reply ans :: rest) (latch op v s))))) := by
  obtain ⟨hb, hp⟩ := hidle
  rw [hm.meaning, whenIdle_idle hb, acceptConfig, whenConfigured_configured hph, carryOut, latch_inputs, hin, ← hm.register]
  exact congrArg _ (drive_reply_issue ans rfl hp rfl)

/-- Either answer ends the command (R115), so it takes no event after it. -/
theorem configEffect_of_configuresRegister (hm : ConfiguresRegister mk op reg) : ConfigEffect mk op reg := by
  intro s v w rest hidle hph
  constructor
  · intro hin
    rw [exec_config_answer hm hidle hph _ hin, answer_ok (send_pending _ _) rfl, closeRequest_ok rfl,
      drive_idle (q := configSequence) rfl, hidle.1, hidle.2]
    rfl
  · intro hin
    rw [exec_config_answer hm hidle hph _ hin, answer_err (send_pending _ _) rfl, closeRequest_err rfl,
      drive_idle (q := configSequence) rfl, hidle.1, hidle.2]
    rfl

end Effect

/-- Settles O25: the five commands have one shape, and either answer to its write ends it. -/
theorem configWritesOnce : Obligations.ConfigWritesOnce :=
  ⟨configEffect_of_configuresRegister setmode_configuresRegister,
    configEffect_of_configuresRegister trigrst_configuresRegister,
    configEffect_of_configuresRegister setrate_configuresRegister,
    configEffect_of_configuresRegister setint_configuresRegister,
    configEffect_of_configuresRegister clrstat_configuresRegister⟩

section Frame
variable {r : Request} {s t : State}

/-- From `s` a configuration command with the one write `r` has gone on to `t`, or has ended there: either `r` is still to
be issued or was never due, or it is on the bus and, while the command goes on, outstanding. -/
structure Configuring (r : Request) (s t : State) : Prop where
  phase : t.phase = s.phase
  devAddr : t.devAddr = s.devAddr
  acc : t.acc = s.acc
  raw : t.raw = s.raw
  mag : t.mag = s.mag
  write : t.busy = true → writeByte t.devAddr (configReg t.op) t.arg = r
  trace : (t.pending = none ∧ t.trace = s.trace) ∨ ((t.busy = true → t.pending ≠ none) ∧ t.trace = s.trace ++ [r])

theorem acceptConfig_configuring (op v : Byte) (hp : s.pending = none) :
    Configuring (writeByte s.devAddr (configReg op) v) s (acceptConfig op v s) := by
  rw [acceptConfig]
  cases hph : s.phase with
  | uninit =>
    rw [whenConfigured_uninit hph]
    exact ⟨rfl, rfl, rfl, rfl, rfl, nofun, .inl ⟨hp, rfl⟩⟩
  | configured =>
    rw [whenConfigured_configured hph]
    exact ⟨rfl, rfl, rfl, rfl, rfl, fun _ => rfl, .inl ⟨hp, rfl⟩⟩

theorem configRequest_eq_some {r' : Request} (hr : configRequest t = some r') :
    writeByte t.devAddr (configReg t.op) t.arg = r' := by
  rw [configRequest, Option.ite_none_right_eq_some] at hr
  exact Option.some.inj hr.2

/-- With none outstanding, a request issued is the command's one write. -/
theorem send_configuring {r' : Request} (hb : t.busy = true) (hp : t.pending = none) (hr : configRequest t = some r')
    (h : Configuring r s t) : Configuring r s (send r' t) := by
  obtain rfl : r = r' := (h.write hb).symm.trans (configRequest_eq_some hr)
  obtain ⟨_, htrace⟩ | ⟨hout, _⟩ := h.trace
  · exact { h with trace := .inr ⟨nofun, by rw [send_trace, htrace]⟩ }
  · exact absurd hp (hout hb)

/-- A request answered is the command's one write, and no request follows it: the command ends. -/
theorem respond_configuring {r' : Request} (st : Status) (ans : Reply) (hp : t.pending = some r') (h : Configuring r s t) :
    Configuring r s (respond st [] (closeRequest r' ans t)) := by
  obtain ⟨hnone, _⟩ | ⟨_, htrace⟩ := h.trace
  · simp [hp] at hnone
  · exact ⟨by simp [h.phase], by simp [h.devAddr], by simp [h.acc], by simp [h.raw], by simp [h.mag], nofun,
      .inr ⟨nofun, by simpa using htrace⟩⟩

theorem drive_configuring (ins : List Input) (h : Configuring r s t) : Configuring r s (drive configSequence ins t) :=
  drive_keeps (P := Configuring r s) (fun _ _ hu => { hu with })
    (settle_keeps (fun _ _ => send_configuring) (fun _ _ _ _ hu => hu))
    (answer_keeps (fun _ _ ans _ => respond_configuring .transport ans)
      (fun _ _ ans _ hp _ hu => { respond_configuring .ok ans hp hu with })) ins t h

theorem configFrame_of_configuresRegister {mk : Byte → Instr} {op reg : Byte} (hm : ConfiguresRegister mk op reg) :
    ConfigFrame mk reg := by
  intro s t v hp h
  rw [hm.meaning, whenIdle_eq_next] at h
  obtain ⟨_, rfl⟩ := h
  obtain ⟨hphase, hdev, hacc, hraw, hmag, _, htrace⟩ := drive_configuring _ (acceptConfig_configuring op v hp)
  rw [hm.register] at htrace
  exact ⟨htrace.imp And.right And.right, hphase, hdev, hacc, hraw, hmag⟩

end Frame

/-- Settles O34: what issuing and answering the one write keep, along the events the five commands are carried through. -/
theorem configFrames : Obligations.ConfigFrames :=
  ⟨configFrame_of_configuresRegister setmode_configuresRegister,
    configFrame_of_configuresRegister trigrst_configuresRegister,
    configFrame_of_configuresRegister setrate_configuresRegister,
    configFrame_of_configuresRegister setint_configuresRegister,
    configFrame_of_configuresRegister clrstat_configuresRegister⟩

end Sys2Proof.Machine
end

section
/-! The converter and the validator (`42_converter_validator.md` R121 to R136): the sign test and the low bits in plain
arithmetic, one equation of each decoder for each side of the test, and from these the ranges, the output words and the
thresholds. -/

namespace Sys2Proof.Machine
open Sys2Proof.Claims

section SignTest
variable {raw : Word}

/-- Which value the eleven low bits have. -/
theorem lowBits_eq_iff {v : Word} : raw &&& 0x7FF = v ↔ raw.toNat % 2048 = v.toNat := by
  rw [← BitVec.toNat_inj]
  exact iff_of_eq (congrArg (· = v.toNat) (and_signMask raw))

theorem lowBits_eq_self_iff : raw &&& 0x7FF = raw ↔ raw.toNat < 2048 := by
  rw [lowBits_eq_iff]
  omega

theorem lowBits_ne_self_iff : raw &&& 0x7FF ≠ raw ↔ 2048 ≤ raw.toNat := by
  rw [Ne, lowBits_eq_self_iff, not_lt]

theorem upperBits_eq_zero_iff : raw.extractLsb' 11 5 = 0 ↔ raw.toNat < 2048 := by
  have h := raw.isLt
  have bits : (raw.extractLsb' 11 5).toNat = raw.toNat / 2048 % 32 := by
    simp only [BitVec.extractLsb'_toNat, Nat.shiftRight_eq_div_pow, Nat.reducePow]
  rw [← BitVec.toNat_inj, bits, BitVec.ofNat_eq_ofNat, BitVec.toNat_zero]
  omega

theorem low11_iff : low11 raw = true ↔ raw.toNat < 2048 := by
  rw [low11_eq, decide_eq_true_eq]

theorem low11_eq_false_iff : low11 raw = false ↔ 2048 ≤ raw.toNat := by
  rw [low11_eq, decide_eq_false_iff_not, not_lt]

end SignTest

section Decoders
variable {raw : Word}

theorem pixMag_of_lt (h : raw.toNat < 2048) : pixMag raw = raw.toNat := by
  rw [pixMag_eq, if_pos h]

theorem pixMag_of_ge (h : 2048 ≤ raw.toNat) : pixMag raw = (raw.toNat : Int) - 4096 := by
  rw [pixMag_eq, if_neg (by omega)]

theorem thMag_of_lt (h : raw.toNat < 2048) : thMag raw = raw.toNat := by
  rw [thMag_eq, if_pos h]

theorem thMag_of_ge (h : 2048 ≤ raw.toNat) : thMag raw = -((raw.toNat % 2048 : Nat) : Int) := by
  rw [thMag_eq, if_neg (by omega)]

/-- Which samples have a given pixel magnitude, on either side of the sign test. -/
theorem pixMag_eq_iff {m : Int} :
    pixMag raw = m ↔ (raw.toNat < 2048 ∧ (raw.toNat : Int) = m) ∨ (2048 ≤ raw.toNat ∧ (raw.toNat : Int) = m + 4096) := by
  rcases lt_or_ge raw.toNat 2048 with h | h
  · rw [pixMag_of_lt h]
    omega
  · rw [pixMag_of_ge h]
    omega

theorem pixMag_range (raw : Word) : -2048 ≤ pixMag raw ∧ pixMag raw ≤ 61439 := by
  have := raw.isLt
  have := pixMag_eq_iff.mp (rfl : pixMag raw = _)
  omega

theorem thMag_range (raw : Word) : -2047 ≤ thMag raw ∧ thMag raw ≤ 2047 := by
  rcases lt_or_ge raw.toNat 2048 with h | h
  · rw [thMag_of_lt h]
    omega
  · rw [thMag_of_ge h]
    omega

/-- Behind a failed sign test the low bits alone decide. -/
theorem thMag_of_lowBits_ne (h : raw &&& 0x7FF ≠ raw) : thMag raw = -((raw &&& 0x7FF).toNat : Int) := by
  rw [thMag_of_ge (lowBits_ne_self_iff.mp h), ← lowBits_eq_iff.mp rfl]

/-- With bit 11 set and the four bits above it clear, the sample is read as a 12-bit number. -/
theorem toInt_setWidth_twelve (hmin : 2048 ≤ raw.toNat) (hmax : raw.toNat < 4096) :
    (raw.setWidth 12).toInt = (raw.toNat : Int) - 4096 := by
  have value : (raw.setWidth 12).toNat = raw.toNat := by
    rw [BitVec.toNat_setWidth, Nat.mod_eq_of_lt hmax]
  rw [BitVec.toInt_eq_toNat_cond, value, if_neg (by omega)]
  rfl

/-- From 0x1000 on the decoders have opposite signs. -/
theorem decoder_signs (h : 4096 ≤ raw.toNat) : 0 ≤ pixMag raw ∧ thMag raw ≤ 0 := by
  rw [pixMag_of_ge (by omega), thMag_of_ge (by omega)]
  omega

/-- The sample that decodes to a given magnitude: the magnitude itself, or 4096 above it. -/
theorem pixMag_surjective {m : Int} (hmin : -2048 ≤ m) (hmax : m ≤ 61439) : ∃ raw, pixMag raw = m := by
  refine ⟨BitVec.ofNat 16 (m + 4096).toNat, pixMag_eq_iff.mpr (.inr ?_)⟩
  rw [BitVec.toNat_ofNat]
  omega

theorem thMag_eq_min_iff : thMag raw = -2047 ↔ raw &&& 0x7FF = 0x7FF ∧ raw.extractLsb' 11 5 ≠ 0 := by
  have full : raw &&& 0x7FF = 0x7FF ↔ raw.toNat % 2048 = 2047 := lowBits_eq_iff
  rw [full, Ne, upperBits_eq_zero_iff]
  rcases lt_or_ge raw.toNat 2048 with h | h
  · rw [thMag_of_lt h]
    omega
  · rw [thMag_of_ge h]
    omega

end Decoders

/-- Settles O12: each form of the test is the bound 2048. -/
theorem signTest : Obligations.SignTest := by
  intro raw
  refine ⟨low11_iff.trans lowBits_eq_self_iff.symm, low11_iff.trans upperBits_eq_zero_iff.symm, low11_iff,
    low11_iff.trans Nat.lt_succ_iff, fun h => ?_⟩
  exact ⟨pixMag_of_lt (low11_iff.mp h), thMag_of_lt (low11_iff.mp h)⟩

/-- Settles O13: the two sides of the test, the second one also as a 12-bit number. -/
theorem pixelDecode : Obligations.PixelDecode := by
  refine ⟨fun raw => ⟨fun h => ?_, fun h => ?_, fun hmin hmax => ?_, fun h => (decoder_signs h).1⟩, by decide⟩
  · exact pixMag_of_lt (lowBits_eq_self_iff.mp h)
  · exact pixMag_of_ge (lowBits_ne_self_iff.mp h)
  · rw [pixMag_of_ge hmin, toInt_setWidth_twelve hmin (Nat.lt_succ_of_le hmax)]

/-- Settles O14: the two sides of the test, the second one a function of the low bits. -/
theorem thermDecode : Obligations.ThermDecode := by
  refine ⟨fun raw => ⟨fun h => thMag_of_lt (lowBits_eq_self_iff.mp h), fun h => ?_⟩, ?_, by decide⟩
  · have negated := thMag_of_lowBits_ne h
    exact ⟨negated, (thMag_range raw).1, by omega⟩
  · intro raw raw' h h' low
    rw [thMag_of_lowBits_ne h, thMag_of_lowBits_ne h', low]

/-- Settles O15: the samples are the multiples of 2048 but zero, and the negation of zero is zero. -/
theorem negativeZero : Obligations.NegativeZero := by
  intro raw
  have hlt := raw.isLt
  have lowZero : raw &&& 0x7FF = 0 ↔ raw.toNat % 2048 = 0 := lowBits_eq_iff
  rw [low11_eq_false_iff, lowZero]
  constructor
  · constructor
    · rintro ⟨hmin, hmod⟩
      exact ⟨raw.toNat / 2048, by omega, by omega, by omega⟩
    · rintro ⟨k, hk, -, hraw⟩
      omega
  · rintro ⟨hmin, hmod⟩
    have zero : thMag raw = 0 := by rw [thMag_of_ge hmin, hmod]; rfl
    exact ⟨zero, by rw [thWord, zero]; rfl⟩

/-- Settles O16: each clause from the side of the sign test a sample is on. -/
theorem decoderRanges : Obligations.DecoderRanges := by
  refine ⟨fun raw => ?_, by decide, by decide, by decide, fun m => pixMag_surjective, fun m raw hmin hmax => ?_,
    fun m raw hm => ?_, fun raw => thMag_eq_min_iff, fun raw => ⟨toMag_pixMag raw, toMag_thMag raw⟩, fun raw => ?_,
    fun raw h => ?_⟩
  · exact ⟨(pixMag_range raw).1, (pixMag_range raw).2, thMag_range raw⟩
  · rw [pixMag_eq_iff]
    omega
  · rw [pixMag_eq_iff]
    omega
  · have := pixMag_eq_iff.mp (rfl : pixMag raw = _)
    omega
  · rw [violates_eq_true, pixMag_of_ge (by omega)]
    omega

/-- Settles O17: below 0x0800 both return the sample; above, with low bits `r` and upper bits `k`, they agree when
`2048 * k + 2 * r = 4096`. -/
theorem decodersAgreeOnly : Obligations.DecodersAgreeOnly := by
  intro raw
  refine ⟨?_, decoder_signs⟩
  have first : raw = 0x0C00 ↔ raw.toNat = 0x0C00 := BitVec.toNat_inj.symm
  have second : raw = 0x1000 ↔ raw.toNat = 0x1000 := BitVec.toNat_inj.symm
  rw [first, second]
  rcases lt_or_ge raw.toNat 2048 with h | h
  · rw [pixMag_of_lt h, thMag_of_lt h]
    omega
  · rw [pixMag_of_ge h, thMag_of_ge h]
    omega

section Validator
variable {raw : Word}

theorem accepted_iff_range : accepted raw = true ↔ -80 ≤ pixMag raw ∧ pixMag raw ≤ 400 := by
  rw [accepted, Bool.not_eq_true', violates_eq_false]

theorem accepted_iff : accepted raw = true ↔ raw.toNat ≤ 0x0190 ∨ (0x0FB0 ≤ raw.toNat ∧ raw.toNat ≤ 0x1190) := by
  rw [accepted_iff_range]
  rcases lt_or_ge raw.toNat 2048 with h | h
  · rw [pixMag_of_lt h]
    omega
  · rw [pixMag_of_ge h]
    omega

/-- The accepted samples are the words of two intervals. -/
theorem accepted_eq_between : accepted = fun raw => between 0 0x0190 raw || between 0x0FB0 0x1190 raw := by
  funext raw
  rw [Bool.eq_iff_iff, accepted_iff]
  simp [between]

theorem countWords_accepted : countWords accepted = 882 := by
  rw [accepted_eq_between, countWords_or (between_disjoint (by decide)), countWords_between _ _ (by decide),
    countWords_between _ _ (by decide)]

/-- A pixel temperature against a whole number of degrees, as its magnitude against four times the number. -/
theorem quarter_lt_iff {mag c : Int} : (mag : Rat) * (1 / 4) < c ↔ mag < c * 4 := by
  rw [mul_one_div, div_lt_iff₀ (by norm_num)]
  exact_mod_cast Iff.rfl

theorem lt_quarter_iff {mag c : Int} : (c : Rat) < (mag : Rat) * (1 / 4) ↔ c * 4 < mag := by
  rw [mul_one_div, lt_div_iff₀ (by norm_num)]
  exact_mod_cast Iff.rfl

/-- The integer thresholds are those of the source (R130). -/
theorem violates_iff_celsius {mag : Int} :
    violates mag = true ↔ (mag : Rat) * (1 / 4) < -20 ∨ (mag : Rat) * (1 / 4) > 100 := by
  have low : (mag : Rat) * (1 / 4) < -20 ↔ mag < -20 * 4 := by exact_mod_cast quarter_lt_iff (c := -20)
  have high : 100 < (mag : Rat) * (1 / 4) ↔ 100 * 4 < mag := by exact_mod_cast lt_quarter_iff (c := 100)
  rw [violates_eq_true, gt_iff_lt, low, high]
  rfl

end Validator

/-- Settles O18: the two sides of the sign test; the intervals are disjoint. -/
theorem acceptedSamples : Obligations.AcceptedSamples := by
  refine ⟨fun raw => accepted_iff, countWords_accepted, ?_⟩
  rw [countWords_not, countWords_accepted]

/-- Settles O19: a comparison of quarters of a degree is one of integers. -/
theorem thresholdsInCelsius : Obligations.ThresholdsInCelsius := by
  refine ⟨fun mag => ⟨violates_eq_true, violates_iff_celsius, ?_⟩, by decide⟩
  rw [← Bool.not_eq_true, violates_iff_celsius, not_or, not_lt, gt_iff_lt, not_lt]

section OutputWords
variable {raw : Word}

theorem pixWord_toInt (h : accepted raw = true) : (pixWord raw).toInt = pixMag raw := by
  obtain ⟨hmin, hmax⟩ := accepted_iff_range.mp h
  exact outWord_toInt (by omega) (by omega)

theorem thWord_toInt (raw : Word) : (thWord raw).toInt = thMag raw := by
  obtain ⟨hmin, hmax⟩ := thMag_range raw
  exact outWord_toInt (by omega) (by omega)

/-- The words of a signed range: those of its negative values at the top, the others at the bottom. -/
theorem toNat_of_toInt_range {w : Word} {lo hi : Int} (hmin : lo ≤ w.toInt) (hmax : w.toInt ≤ hi) :
    65536 + lo ≤ (w.toNat : Int) ∨ (w.toNat : Int) ≤ hi := by
  rw [BitVec.toInt_eq_toNat_cond] at hmin hmax
  split at hmin <;> omega

end OutputWords

/-- Settles O20: an accepted magnitude fits the word. -/
theorem pixelOutputWord : Obligations.PixelOutputWord := by
  refine ⟨fun raw h => ⟨pixWord_toInt h, pixelCelsius_pixWord h, ?_⟩, by decide⟩
  obtain ⟨hmin, hmax⟩ := accepted_iff_range.mp h
  rw [← pixWord_toInt h] at hmin hmax
  have := toNat_of_toInt_range hmin hmax
  omega

/-- Settles O21: every thermistor magnitude fits the word. -/
theorem thermOutputWord : Obligations.ThermOutputWord := by
  refine ⟨fun raw => ⟨thWord_toInt raw, thermCelsius_thWord raw, ?_⟩, by decide⟩
  obtain ⟨hmin, hmax⟩ := thMag_range raw
  rw [← thWord_toInt raw] at hmin hmax
  have := toNat_of_toInt_range hmin hmax
  omega

section Thermistor
variable {s : State} {rest : List Input}

/-- With a handle, the read goes on the bus and takes the answer (R149). -/
theorem exec_rdtherm_answer (hidle : Idle s) (hph : s.phase = .configured) (ans : Reply)
    (hin : s.inputs = .reply ans :: rest) :
    exec .rdtherm s = .next (drive thermSequence rest (answer thermSequence ans
      (send (readWord s.devAddr 0x0E) (setInputs (.reply ans :: rest) (latch 0x21 0x00 s))))) := by
  obtain ⟨hb, hp⟩ := hidle
  refine (exec_eq .rdtherm s).trans ?_
  rw [whenIdle_idle hb, accept, acceptRdtherm, whenConfigured_configured hph, carryOut, latch_inputs, hin]
  exact congrArg _ (drive_reply_issue ans rfl hp rfl)

/-- An entry inside the accumulator is stored. -/
theorem writeAcc_acc_of_lt {i : Nat} (hi : i < 64) (w : Word) (s : State) : (writeAcc i w s).acc = s.acc.set i w := by
  refine Vector.ext fun j hj => ?_
  rw [writeAcc_acc, Vector.getElem_setIfInBounds, Vector.getElem_set]

/-- *Answer Ok* of `RDTHERM` (R149), in the sample's output word. -/
theorem thermSequence_answerOk (w : Word) (s : State) : thermSequence.answerOk w s = { s with
    raw := w, mag := toMag (thMag w), step := 1, busy := false
    acc := s.acc.set 0 (thWord w)
    responses := s.responses ++ [{ status := .ok, data := [thWord w] }] } := by
  rw [← writeAcc_acc_of_lt (by decide)]
  exact thermAnswer_eq w s

end Thermistor

/-- Settles O30: either answer to the one read ends the command, so it takes no event after it. -/
theorem rdthermReadsOnce : Obligations.RdthermReadsOnce := by
  intro s w rest hidle hph
  constructor
  · intro hin
    rw [exec_rdtherm_answer hidle hph _ hin, answer_ok (send_pending _ _) rfl, closeRequest_ok rfl,
      thermSequence_answerOk, drive_idle rfl, hidle.1, hidle.2]
    rfl
  · intro hin
    rw [exec_rdtherm_answer hidle hph _ hin, answer_err (send_pending _ _) rfl, closeRequest_err rfl,
      drive_idle (q := thermSequence) rfl, hidle.1, hidle.2]
    rfl

end Sys2Proof.Machine
end

section
/-! Sampling (`43_sampling.md` R140 to R151): the state of a scan whose first samples were accepted, what the next answer
makes of it, and what the two sampling commands leave alone whatever the events. -/

namespace Sys2Proof.Machine
open Sys2Proof.Claims

theorem pixelReads_succ (dev : DevAddr) (n : Nat) :
    pixelReads dev (n + 1) = pixelReads dev n ++ [readWord dev (pixelReg n)] := by
  simp [pixelReads, List.range_succ]

/-- The read answered `Err` is delivered or not, after those answered `Ok`. -/
theorem pixelReads_add_draw (dev : DevAddr) (n : Nat) (drawn : Bool) (before : List Request) :
    before ++ pixelReads dev (n + if drawn then 1 else 0) =
      if drawn then before ++ pixelReads dev n ++ [readWord dev (pixelReg n)] else before ++ pixelReads dev n := by
  cases drawn with
  | false => rfl
  | true => rw [if_pos rfl, if_pos rfl, pixelReads_succ, List.append_assoc]

/-- A command takes its events from the front. -/
theorem exec_inputs {i : Instr} {s t : State} (h : exec i s = .next t) : t.inputs <:+ s.inputs := by
  obtain ⟨_, rfl⟩ := exec_eq_next.mp h
  rw [← accept_inputs i s]
  exact carryOut_inputs (sequenceFor_finish_inputs i) (accept i s)

/-- *Answer Ok* of `RDTEMPS` (R147) with an accepted sample, in the sample's output word. -/
theorem scanSequence_answerOk_accepted {w : Word} (hw : accepted w = true) (s : State) :
    scanSequence.answerOk w s = { s with
      raw := w, mag := toMag (pixMag w), step := s.step + 1
      acc := s.acc.setIfInBounds s.step.toNat (pixWord w) } :=
  scanAnswer_store (by simpa [accepted] using hw) s

/-- *Answer Ok* of `RDTEMPS` (R147) with a sample outside the window. -/
theorem scanSequence_answerOk_rejected {w : Word} (hw : accepted w = false) (s : State) :
    scanSequence.answerOk w s = respond .range (accPrefix s.step.toNat s) (loadPixel w s) :=
  scanAnswer_range (by simpa [accepted] using hw) s

section Accumulator
variable {words : List Word} {acc : Vector Word 64}

/-- The accumulator with `words` stored in its first entries. -/
def storeWords (words : List Word) (acc : Vector Word 64) : Vector Word 64 :=
  Vector.ofFn fun i => words[i.val]?.getD acc[i]

theorem getElem_storeWords {i : Nat} (hi : i < 64) : (storeWords words acc)[i] = words[i]?.getD acc[i] := by
  simp [storeWords]

theorem storeWords_nil : storeWords [] acc = acc := by
  refine Vector.ext fun i hi => ?_
  rw [getElem_storeWords hi]
  rfl

/-- One word more is stored in the entry after them. -/
theorem storeWords_concat (w : Word) :
    storeWords (words ++ [w]) acc = (storeWords words acc).setIfInBounds words.length w := by
  refine Vector.ext fun i hi => ?_
  rw [getElem_storeWords hi, Vector.getElem_setIfInBounds hi, getElem_storeWords hi, List.getElem?_append]
  by_cases hlt : i < words.length
  · rw [if_pos hlt, if_neg (by omega)]
  · rw [if_neg hlt]
    by_cases heq : words.length = i
    · rw [if_pos heq, heq, Nat.sub_self]
      rfl
    · rw [if_neg heq, List.getElem?_eq_none (by simp; omega), List.getElem?_eq_none (by omega)]

/-- The words stored are read back. -/
theorem accPrefix_storeWords {s : State} (hs : s.acc = storeWords words acc) (hlen : words.length ≤ 64) :
    accPrefix words.length s = words := by
  refine List.ext_getElem (by rw [accPrefix_length hlen]) fun i h hi => ?_
  simp only [accPrefix, hs, List.getElem_take, Vector.getElem_toList]
  rw [getElem_storeWords (by omega), List.getElem?_eq_getElem hi]
  rfl

end Accumulator

section Samples
variable {s : State} {count : Byte} {good : List Word} {rest : List Input}

/-- `RDTEMPS count` accepted in `s`, with the samples `good` read, accepted and stored. -/
def afterSamples (count : Byte) (good : List Word) (s : State) : State :=
  { latch 0x20 count s with
    step := BitVec.ofNat 7 good.length
    acc := storeWords (good.map pixWord) s.acc
    raw := good.getLast?.getD s.raw
    mag := (good.getLast?.map (toMag ∘ pixMag)).getD s.mag
    pending := none
    trace := s.trace ++ pixelReads s.devAddr good.length
    delivered := s.delivered ++ pixelReads s.devAddr good.length }

theorem afterSamples_nil (hp : s.pending = none) : afterSamples count [] s = latch 0x20 count s := by
  simp [afterSamples, latch, hp, storeWords_nil, pixelReads]

theorem afterSamples_concat (w : Word) : afterSamples count (good ++ [w]) s =
    { afterSamples count good s with
      raw := w, mag := toMag (pixMag w), step := (afterSamples count good s).step + 1
      acc := (afterSamples count good s).acc.setIfInBounds good.length (pixWord w)
      trace := (afterSamples count good s).trace ++ [readWord s.devAddr (pixelReg good.length)]
      delivered := (afterSamples count good s).delivered ++ [readWord s.devAddr (pixelReg good.length)] } := by
  have stored := storeWords_concat (words := good.map pixWord) (acc := s.acc) (pixWord w)
  rw [List.length_map] at stored
  simp [afterSamples, stored, pixelReads_succ, BitVec.ofNat_add]

theorem afterSamples_step (hlen : good.length ≤ 64) : (afterSamples count good s).step.toNat = good.length :=
  Nat.mod_eq_of_lt (by omega)

theorem accPrefix_afterSamples (hlen : good.length ≤ 64) :
    accPrefix (afterSamples count good s).step.toNat (afterSamples count good s) = good.map pixWord := by
  have stored := accPrefix_storeWords (s := afterSamples count good s) (words := good.map pixWord) rfl (by simpa using hlen)
  rwa [List.length_map, ← afterSamples_step (count := count) (s := s) hlen] at stored

/-- The scan after these samples as the statements describe it, when it ends with `n` reads sent. -/
theorem afterScan_afterSamples (hlen : good.length ≤ 64) (n : Nat) :
    AfterScan s { afterSamples count good s with
      busy := false, inputs := rest, trace := s.trace ++ pixelReads s.devAddr n } count good n rest :=
  ⟨rfl, rfl, rfl, rfl, rfl, rfl, afterSamples_step (count := count) (s := s) hlen, rfl, rfl,
    fun _ hi => getElem_storeWords hi⟩

/-- An idle block with a handle carries a scan of a legal count out from its first pixel. -/
theorem exec_rdtemps (hidle : Idle s) (hph : s.phase = .configured) (hmin : 1 ≤ count.toNat) (hmax : count.toNat ≤ 64) :
    exec (.rdtemps count) s = .next (drive scanSequence s.inputs (afterSamples count [] s)) := by
  obtain ⟨hb, hp⟩ := hidle
  rw [exec_eq, whenIdle_idle hb, accept, acceptRdtemps, whenConfigured_configured hph,
    if_pos ((countLegal_iff count).mpr ⟨hmin, hmax⟩), afterSamples_nil hp]
  rfl

/-- The read of the next pixel goes on the bus and takes the answer. -/
theorem drive_afterSamples (hmax : count.toNat ≤ 64) (hlt : good.length < count.toNat) (ans : Reply) :
    drive scanSequence (.reply ans :: rest) (afterSamples count good s) = drive scanSequence rest
      (answer scanSequence ans (send (readWord s.devAddr (pixelReg good.length))
        (setInputs (.reply ans :: rest) (afterSamples count good s)))) := by
  have hstep : (afterSamples count good s).step.toNat = good.length := afterSamples_step (by omega)
  refine drive_reply_issue ans rfl rfl ?_
  rw [← hstep]
  exact if_pos (hstep ▸ hlt)

/-- An accepted sample is stored, and the scan goes on (R141). -/
theorem drive_afterSamples_ok (hmax : count.toNat ≤ 64) (hlt : good.length < count.toNat) {w : Word}
    (hw : accepted w = true) : drive scanSequence (okReply w :: rest) (afterSamples count good s) =
      drive scanSequence rest (afterSamples count (good ++ [w]) s) := by
  have hstep : (afterSamples count good s).step.toNat = good.length := afterSamples_step (by omega)
  rw [okReply, drive_afterSamples hmax hlt, answer_ok (send_pending _ _) rfl, closeRequest_ok rfl,
    scanSequence_answerOk_accepted hw, ← drive_setInputs _ _ (okReply w :: rest) (afterSamples count (good ++ [w]) s),
    afterSamples_concat, ← hstep]
  rfl

theorem drive_afterSamples_oks (hmax : count.toNat ≤ 64) (words : List Word)
    (hlen : good.length + words.length ≤ count.toNat) (hw : ∀ w ∈ words, accepted w = true) :
    drive scanSequence (words.map okReply ++ rest) (afterSamples count good s) =
      drive scanSequence rest (afterSamples count (good ++ words) s) := by
  induction words generalizing good with
  | nil => simp
  | cons w words ih =>
    obtain ⟨hfirst, hothers⟩ := List.forall_mem_cons.mp hw
    rw [List.length_cons] at hlen
    rw [List.map_cons, List.cons_append, drive_afterSamples_ok hmax (by omega) hfirst,
      ih (by rw [List.length_append, List.length_singleton]; omega) hothers, List.append_assoc, List.singleton_append]

/-- A sample outside the window ends the scan with the words before it (R142). -/
theorem drive_afterSamples_range (hmax : count.toNat ≤ 64) (hlt : good.length < count.toNat) {bad : Word}
    (hbad : accepted bad = false) : drive scanSequence (okReply bad :: rest) (afterSamples count good s) =
      respond .range (good.map pixWord) { afterSamples count good s with
        raw := bad, mag := toMag (pixMag bad), inputs := rest
        trace := s.trace ++ pixelReads s.devAddr (good.length + 1)
        delivered := s.delivered ++ pixelReads s.devAddr (good.length + 1) } := by
  rw [okReply, drive_afterSamples hmax hlt, answer_ok (send_pending _ _) rfl, closeRequest_ok rfl,
    scanSequence_answerOk_rejected hbad, drive_idle (respond_busy _ _ _),
    ← accPrefix_afterSamples (count := count) (s := s) (show good.length ≤ 64 by omega), pixelReads_succ,
    ← List.append_assoc, ← List.append_assoc]
  rfl

/-- A read answered `Err` ends the scan with no words (R143). -/
theorem drive_afterSamples_err (hmax : count.toNat ≤ 64) (hlt : good.length < count.toNat) (w : Word) :
    drive scanSequence (errReply w :: rest) (afterSamples count good s) =
      respond .transport [] { afterSamples count good s with
        inputs := rest, draws := s.draws + 1
        trace := s.trace ++ pixelReads s.devAddr (good.length + 1)
        delivered := s.delivered ++ pixelReads s.devAddr (good.length +
          if Config.deliveryDraw s.draws then 1 else 0) } := by
  rw [errReply, drive_afterSamples hmax hlt, answer_err (send_pending _ _) rfl, drive_idle (respond_busy _ _ _),
    closeRequest_err rfl, pixelReads_add_draw, pixelReads_succ, ← List.append_assoc]
  rfl

/-- *Finish* (R147) after the last sample. -/
theorem drive_afterSamples_finish (hmax : count.toNat ≤ 64) (hlen : good.length = count.toNat)
    (hr : rest.head? ≠ some .reset) : drive scanSequence rest (afterSamples count good s) =
      respond .ok (good.map pixWord) (setInputs rest (afterSamples count good s)) := by
  have hstep : (afterSamples count good s).step.toNat = count.toNat := (afterSamples_step (by omega)).trans hlen
  have unread : ¬ (afterSamples count good s).step.toNat < count.toNat := by omega
  have finished := settle_finish (q := scanSequence) (s := setInputs rest (afterSamples count good s)) rfl rfl
    (if_neg unread) (beq_iff_eq.mpr hstep)
  rw [drive_of_settle_idle hr (by rw [finished]; rfl), finished, ← accPrefix_afterSamples (count := count) (s := s)
    (show good.length ≤ 64 by omega), hstep]
  rfl

end Samples

/-- Settles O26: each accepted sample is stored, then *Finish*. -/
theorem rdtempsReadsFrame : Obligations.RdtempsReadsFrame := by
  intro s count words rest hidle hph hmin hmax hlen hw hin hr
  have hlast : words.getLast? = some (words.getLast?.getD s.raw) := by
    rw [List.getLast?_eq_some_getLast (List.ne_nil_of_length_pos (by omega))]
    rfl
  rw [exec_rdtemps hidle hph hmin hmax, hin, drive_afterSamples_oks hmax words (by simp [hlen]) hw, List.nil_append,
    drive_afterSamples_finish hmax hlen hr]
  refine ⟨_, rfl, afterScan_afterSamples (by omega) _, rfl, rfl, rfl, hlast, ?_⟩
  change (words.getLast?.map (toMag ∘ pixMag)).getD s.mag = toMag (pixMag (words.getLast?.getD s.raw))
  rw [hlast]
  rfl

/-- Settles O27: the accepted samples are stored, and the next one ends the scan. -/
theorem rdtempsAbortsOnRange : Obligations.RdtempsAbortsOnRange := by
  intro s count good bad rest hidle hph hmax hlt hw hbad hin
  rw [exec_rdtemps hidle hph (by omega) hmax, hin, drive_afterSamples_oks hmax good (by simp; omega) hw, List.nil_append,
    drive_afterSamples_range hmax hlt hbad]
  exact ⟨_, rfl, afterScan_afterSamples (by omega) _, rfl, rfl, rfl, rfl, rfl⟩

/-- Settles O28: the accepted samples are stored, and the next answer ends the scan. -/
theorem rdtempsAbortsOnErr : Obligations.RdtempsAbortsOnErr := by
  intro s count good w rest hidle hph hmax hlt hw hin
  rw [exec_rdtemps hidle hph (by omega) hmax, hin, drive_afterSamples_oks hmax good (by simp; omega) hw, List.nil_append,
    drive_afterSamples_err hmax hlt]
  exact ⟨_, rfl, afterScan_afterSamples (by omega) _, rfl, rfl, rfl, rfl, rfl⟩

section ScanFrame
variable {s t : State} {count : Byte} {k : Nat}

/-- From `s` a scan of `count` pixels that sent `k` reads has gone on to `t`, or has ended there: while it goes on, the reads
are those of the pixels before `STEP` and the one outstanding. -/
structure Scanning (count : Byte) (k : Nat) (s t : State) : Prop where
  phase : t.phase = s.phase
  devAddr : t.devAddr = s.devAddr
  le_count : k ≤ count.toNat
  le_max : k ≤ 64
  trace : t.trace = s.trace ++ pixelReads s.devAddr k
  acc : ∀ (i : Nat) (h : i < 64), k ≤ i → t.acc[i] = s.acc[i]
  going : t.busy = true → t.arg = count ∧ count.toNat ≤ 64 ∧ k = t.step.toNat + t.pending.toList.length

/-- A command refused at acceptance, or a scan at its first pixel, has sent no read. -/
theorem acceptRdtemps_scanning (hb : s.busy = false) (hp : s.pending = none) :
    Scanning count 0 s (acceptRdtemps count s) := by
  have unsent : Scanning count 0 s s :=
    ⟨rfl, rfl, Nat.zero_le _, Nat.zero_le _, (List.append_nil _).symm, fun _ _ _ => rfl, by simp [hb]⟩
  rw [acceptRdtemps]
  cases hph : s.phase with
  | uninit =>
    rw [whenConfigured_uninit hph]
    exact { unsent with going := nofun }
  | configured =>
    rw [whenConfigured_configured hph]
    split
    next hc => exact { unsent with going := fun _ => ⟨rfl, ((countLegal_iff count).mp hc).2, by simp [hp]⟩ }
    next => exact { unsent with going := nofun }

theorem send_scanning {r : Request} (hb : t.busy = true) (hp : t.pending = none) (hr : scanRequest t = some r)
    (h : Scanning count k s t) : Scanning count (k + 1) s (send r t) := by
  obtain ⟨harg, hmax, hk⟩ := h.going hb
  obtain ⟨hlt, rfl⟩ := scanRequest_eq_some hr
  rw [harg] at hlt
  obtain rfl : k = t.step.toNat := by simpa [hp] using hk
  exact { h with
    le_count := hlt
    le_max := by omega
    trace := by rw [send_trace, h.trace, pixelReads_succ, h.devAddr, List.append_assoc]
    acc := fun i hi hik => h.acc i hi (by omega)
    going := fun _ => ⟨harg, hmax, rfl⟩ }

/-- A scan ended by the answer to the outstanding read sends no further one. -/
theorem respond_scanning (st : Status) (r : Request) (ans : Reply) (h : Scanning count k s t) :
    Scanning count k s (respond st [] (closeRequest r ans t)) :=
  ⟨by simp [h.phase], by simp [h.devAddr], h.le_count, h.le_max, by simp [h.trace], by simpa using h.acc, nofun⟩

/-- A sample answers the last read sent: an accepted one is stored in the entry of that pixel. -/
theorem answerOk_scanning {r : Request} (ans : Reply) (hb : t.busy = true) (hp : t.pending = some r)
    (h : Scanning count k s t) : Scanning count k s (scanSequence.answerOk ans.data (closeRequest r ans t)) := by
  have closed := respond_scanning .range r ans h
  cases hw : accepted ans.data with
  | false =>
    rw [scanSequence_answerOk_rejected hw]
    exact { closed with }
  | true =>
    obtain ⟨harg, hmax, hk⟩ := h.going hb
    have hlast : k = t.step.toNat + 1 := by simpa [hp] using hk
    have hle := h.le_max
    have hstep : (t.step + 1).toNat = k := by rw [hlast, step_succ (by omega)]
    rw [scanSequence_answerOk_accepted hw]
    exact { closed with
      acc := fun i hi hik => by
        rw [Vector.getElem_setIfInBounds hi, closeRequest_step, if_neg (by omega)]
        exact closed.acc i hi hik
      going := fun _ => by simpa [harg, hmax] using hstep.symm }

/-- *Finish* ends the scan with the reads it has sent. -/
theorem finish_scanning (h : Scanning count k s t) : Scanning count k s (scanSequence.finish t) := by
  rw [scanSequence]
  exact { h with going := nofun }

theorem drive_scanning (ins : List Input) (h : Scanning count k s t) :
    ∃ n, Scanning count n s (drive scanSequence ins t) :=
  drive_keeps (P := fun u => ∃ n, Scanning count n s u) (fun _ _ ⟨n, hu⟩ => ⟨n, { hu with }⟩)
    (settle_keeps (fun _ _ hb hp hr ⟨n, hu⟩ => ⟨n + 1, send_scanning hb hp hr hu⟩)
      (fun _ _ _ _ ⟨n, hu⟩ => ⟨n, finish_scanning hu⟩))
    (answer_keeps (fun _ r ans _ _ ⟨n, hu⟩ => ⟨n, respond_scanning .transport r ans hu⟩)
      (fun _ _ ans hb hp _ ⟨n, hu⟩ => ⟨n, answerOk_scanning ans hb hp hu⟩)) ins t ⟨k, h⟩

end ScanFrame

/-- Settles O35: what issuing, answering and finishing keep, along the events the scan is carried through. -/
theorem rdtempsFrame : Obligations.RdtempsFrame := by
  intro count s t hp h
  have suffix := exec_inputs h
  obtain ⟨hb, rfl⟩ := exec_eq_next.mp h
  obtain ⟨k, hphase, hdev, hcount, hmax, htrace, hacc, _⟩ :=
    drive_scanning _ (acceptRdtemps_scanning (count := count) hb hp)
  exact ⟨hphase, hdev, suffix, k, hcount, hmax, htrace, hacc⟩

section ThermFrame
variable {s t : State} {r : Request}

/-- From `s` the command `RDTHERM` has gone on to `t`, or has ended there: either its read is still to be issued or was never
due, or it is on the bus and, while the command goes on, outstanding. -/
structure ReadingTherm (s t : State) : Prop where
  phase : t.phase = s.phase
  devAddr : t.devAddr = s.devAddr
  acc : ∀ (i : Nat) (h : i < 64), 1 ≤ i → t.acc[i] = s.acc[i]
  trace : (t.pending = none ∧ t.trace = s.trace) ∨
    ((t.busy = true → t.pending ≠ none) ∧ t.trace = s.trace ++ [readWord s.devAddr regTthl])

theorem acceptRdtherm_readingTherm (hp : s.pending = none) : ReadingTherm s (acceptRdtherm s) := by
  rw [acceptRdtherm]
  cases hph : s.phase with
  | uninit =>
    rw [whenConfigured_uninit hph]
    exact ⟨rfl, rfl, fun _ _ _ => rfl, .inl ⟨hp, rfl⟩⟩
  | configured =>
    rw [whenConfigured_configured hph]
    exact ⟨rfl, rfl, fun _ _ _ => rfl, .inl ⟨hp, rfl⟩⟩

theorem thermRequest_eq_some (hr : thermRequest t = some r) : r = readWord t.devAddr regTthl := by
  rw [thermRequest, Option.ite_none_right_eq_some] at hr
  exact (Option.some.inj hr.2).symm

/-- With none outstanding, a request issued is the command's one read. -/
theorem send_readingTherm (hb : t.busy = true) (hp : t.pending = none) (hr : thermRequest t = some r)
    (h : ReadingTherm s t) : ReadingTherm s (send r t) := by
  obtain rfl := thermRequest_eq_some hr
  obtain ⟨_, htrace⟩ | ⟨hout, _⟩ := h.trace
  · exact { h with trace := .inr ⟨nofun, by rw [send_trace, htrace, h.devAddr]⟩ }
  · exact absurd hp (hout hb)

/-- A request answered is the command's one read, and no request follows it: the command ends. -/
theorem respond_readingTherm (st : Status) (ans : Reply) (hp : t.pending = some r) (h : ReadingTherm s t) :
    ReadingTherm s (respond st [] (closeRequest r ans t)) := by
  obtain ⟨hnone, _⟩ | ⟨_, htrace⟩ := h.trace
  · simp [hp] at hnone
  · exact ⟨by simp [h.phase], by simp [h.devAddr], by simpa using h.acc, .inr ⟨nofun, by simpa using htrace⟩⟩

/-- The sample is stored in the first entry, and in no other. -/
theorem answerOk_readingTherm (ans : Reply) (hp : t.pending = some r) (h : ReadingTherm s t) :
    ReadingTherm s (thermSequence.answerOk ans.data (closeRequest r ans t)) := by
  have closed := respond_readingTherm .ok ans hp h
  rw [thermSequence_answerOk]
  exact { closed with
    acc := fun i hi hne => by
      rw [Vector.getElem_set_ne (h := by omega)]
      exact closed.acc i hi hne }

theorem drive_readingTherm (ins : List Input) (h : ReadingTherm s t) : ReadingTherm s (drive thermSequence ins t) :=
  drive_keeps (P := ReadingTherm s) (fun _ _ hu => { hu with })
    (settle_keeps (fun _ _ => send_readingTherm) (fun _ _ _ _ hu => hu))
    (answer_keeps (fun _ _ ans _ => respond_readingTherm .transport ans)
      (fun _ _ ans _ hp _ => answerOk_readingTherm ans hp)) ins t h

end ThermFrame

/-- Settles O36: what issuing and answering the one read keep, along the events `RDTHERM` is carried through. -/
theorem rdthermFrame : Obligations.RdthermFrame := by
  intro s t hp h
  have suffix := exec_inputs h
  obtain ⟨_, rfl⟩ := exec_eq_next.mp h
  obtain ⟨hphase, hdev, hacc, htrace⟩ := drive_readingTherm _ (acceptRdtherm_readingTherm hp)
  exact ⟨hphase, hdev, suffix, htrace.imp And.right And.right, hacc⟩

end Sys2Proof.Machine
end

section
/-! What ends a command and what does not (`60_exceptions.md` R163 to R168, R179, R180): a command refused at acceptance
is over with its response; one in progress always has a next request or can finish, waits for the answer as long as
none comes, and is over when every request is answered. -/

namespace Sys2Proof.Machine
open Sys2Proof.Claims

section Refused
variable {i : Instr} {s : State} {st : Status} {w : Word} {rest : List Input} {count : Byte}

/-- An idle block that responds changes nothing else. -/
theorem respond_idle (hb : s.busy = false) (data : List Word) :
    respond st data s = { s with responses := s.responses ++ [{ status := st, data := data }] } := by
  rw [respond, hb]

theorem exec_answered (hb : s.busy = false) (ha : accept i s = respond st [] s) :
    exec i s = .next (respond st [] s) := by
  rw [exec_eq, whenIdle_idle hb, ha, carryOut_idle _ rfl]

/-- The second acceptance check (R164). -/
theorem exec_noHandle (hi : isInit i = false) (hb : s.busy = false) (hp : s.phase = .uninit) :
    exec i s = .next (respond .notConf [] s) := by
  rcases accept_forms i with ⟨addr, rfl⟩ | ⟨noHandle, _⟩
  · cases hi
  · exact exec_answered hb (noHandle s hp)

/-- The third acceptance check (R165). -/
theorem exec_badCount (hb : s.busy = false) (hp : s.phase = .configured) (hc : count.toNat = 0 ∨ 64 < count.toNat) :
    exec (.rdtemps count) s = .next (respond .badCount [] s) := by
  have illegal : ¬ countLegal count = true := by
    rw [countLegal_iff]
    omega
  refine exec_answered hb ?_
  rw [accept, acceptRdtemps, whenConfigured_configured hp, if_neg illegal]

theorem isInit_of_opField (hd : decode w = .ok i) (ho : opField w ≠ 0x01) : isInit i = false := by
  obtain rfl := encode_of_decode hd
  cases i with
  | init addr => exact absurd (opField_wordOf _ _) ho
  | _ => rfl

theorem decode_rdtemps (ho : opField w = 0x20) : decode w = .ok (.rdtemps (argField w)) := by
  rw [← decode_encode, encode, ← ho, wordOf_fields]

/-- A word that an idle block answers as soon as it is taken from the port is noted, and changes no register. -/
theorem step_answered (hb : s.busy = false) (hi : s.inputs = .command w :: rest)
    (ht : takeCommand w (setInputs rest s) = .next (respond st [] (recordCommand w (setInputs rest s)))) :
    step s = .next { s with
      inputs := rest, commands := s.commands ++ [w]
      responses := s.responses ++ [{ status := st, data := [] }] } := by
  rw [step_command hi, ht, respond_idle (s := recordCommand w (setInputs rest s)) hb]
  rfl

end Refused

/-- Settles O29: the count is refused at acceptance, so the command is over with its response. -/
theorem badCountTouchesNothing : Obligations.BadCountTouchesNothing := fun _ _ hb hp hc =>
  (exec_badCount hb hp hc).trans (congrArg _ (respond_idle hb []))

/-- Settles O31: a command that needs a handle is refused at acceptance, so it is over with its response. -/
theorem noHandleTouchesNothing : Obligations.NoHandleTouchesNothing := fun _ _ hi hb hp =>
  (exec_noHandle hi hb hp).trans (congrArg _ (respond_idle hb []))

/-- Settles O32: the decoder refuses the word, or it decodes and acceptance refuses the command. -/
theorem acceptanceOrder : Obligations.AcceptanceOrder := by
  intro s w rest hb hi
  refine ⟨fun illegal => ?_, fun legal ho hp => ?_, fun ho hp hc => ?_⟩
  · cases hd : decode w with
    | ok i => rw [decode_accepts_iff_wordWellFormed.mp ⟨i, hd⟩] at illegal; cases illegal
    | error e => exact step_answered hb hi (takeCommand_illegal hd hb)
  · obtain ⟨i, hd⟩ := decode_accepts_iff_wordWellFormed.mpr legal
    exact step_answered hb hi ((takeCommand_decoded hd _).trans (exec_noHandle (isInit_of_opField hd ho) hb hp))
  · exact step_answered hb hi ((takeCommand_decoded (decode_rdtemps ho) _).trans (exec_badCount hb hp hc))

section InFlight
variable {s : State} {q : Sequence}

/-- A command in flight is one of the eight. -/
theorem sequence_of_inFlight (h : commandInFlight s = true) : ∃ q, sequenceOf s.op = some q := by
  rcases (commandInFlight_iff s).mp h with ⟨ho, _⟩ | ⟨ho | ho | ho | ho | ho, _⟩ | ⟨ho, _⟩ | ⟨ho, _⟩ <;>
    exact ⟨_, by rw [ho]; rfl⟩

/-- What is in flight when an `INIT` is. -/
theorem init_of_inFlight (h : commandInFlight s = true) (ho : s.op = 0x01) :
    s.phase = .uninit ∧ s.arg = addrArg s.devAddr ∧ s.step.toNat ≤ 4 := by
  simpa [ho] using (commandInFlight_iff s).mp h

/-- What is in flight when a scan is. -/
theorem scan_of_inFlight (h : commandInFlight s = true) (ho : s.op = 0x20) :
    s.phase = .configured ∧ 1 ≤ s.arg.toNat ∧ s.arg.toNat ≤ 64 ∧ s.step.toNat ≤ s.arg.toNat := by
  simpa [ho] using (commandInFlight_iff s).mp h

/-- A command of one request is in flight only before it is answered. -/
theorem step_of_inFlight (h : commandInFlight s = true) (hinit : s.op ≠ 0x01) (hscan : s.op ≠ 0x20) : s.step = 0 := by
  rcases (commandInFlight_iff s).mp h with ⟨ho, _⟩ | ⟨_, _, hs⟩ | ⟨ho, _⟩ | ⟨_, _, _, hs⟩
  · exact absurd ho hinit
  · exact hs
  · exact absurd ho hscan
  · exact hs

/-- How many requests the command in flight has still to issue (R105, R118, R147, R149). -/
def requestsLeft (s : State) : Nat :=
  if s.op = 0x01 then 4 - s.step.toNat else if s.op = 0x20 then s.arg.toNat - s.step.toNat else 1

theorem requestsLeft_init (ho : s.op = 0x01) : requestsLeft s = 4 - s.step.toNat := if_pos ho

theorem requestsLeft_scan (ho : s.op = 0x20) : requestsLeft s = s.arg.toNat - s.step.toNat := by
  simp [requestsLeft, ho]

theorem requestsLeft_le (h : commandInFlight s = true) : requestsLeft s ≤ 64 := by
  by_cases hinit : s.op = 0x01
  · rw [requestsLeft_init hinit]
    omega
  by_cases hscan : s.op = 0x20
  · obtain ⟨_, _, hmax, _⟩ := scan_of_inFlight h hscan
    rw [requestsLeft_scan hscan]
    omega
  · rw [requestsLeft, if_neg hinit, if_neg hscan]
    decide

/-- A command in flight has a next request, or has none left and can finish: no rule is missing (log 10). -/
theorem request_or_done (h : commandInFlight s = true) (hq : sequenceOf s.op = some q) :
    (∃ r, q.request s = some r ∧ 0 < requestsLeft s) ∨ (q.request s = none ∧ q.done s = true) := by
  have single : s.op ≠ 0x01 → s.op ≠ 0x20 → s.step = 0 ∧ 0 < requestsLeft s := fun hinit hscan =>
    ⟨step_of_inFlight h hinit hscan, by rw [requestsLeft, if_neg hinit, if_neg hscan]; exact Nat.one_pos⟩
  rcases sequenceOf_cases hq with ⟨ho, rfl⟩ | ⟨ho, rfl⟩ | ⟨ho, rfl⟩ | ⟨ho, rfl⟩
  · obtain ⟨_, _, hle⟩ := init_of_inFlight h ho
    by_cases hlt : s.step.toNat < 4
    · obtain ⟨r, hr⟩ := initWrites_getElem? s.devAddr hlt
      exact .inl ⟨r, (initRequest_eq s).trans hr, by rw [requestsLeft_init ho]; omega⟩
    · have hd : s.step = 4 := BitVec.eq_of_toNat_eq (show s.step.toNat = 4 by omega)
      exact .inr ⟨(initRequest_eq s).trans (by rw [hd]; rfl), beq_iff_eq.mpr hd⟩
  · have other : s.op ≠ 0x01 ∧ s.op ≠ 0x20 := by rcases ho with ho | ho | ho | ho | ho <;> simp [ho]
    obtain ⟨hs, hleft⟩ := single other.1 other.2
    exact .inl ⟨_, if_pos hs, hleft⟩
  · obtain ⟨_, _, _, hle⟩ := scan_of_inFlight h ho
    by_cases hlt : s.step.toNat < s.arg.toNat
    · exact .inl ⟨_, if_pos hlt, by rw [requestsLeft_scan ho]; omega⟩
    · exact .inr ⟨if_neg hlt, beq_iff_eq.mpr (by omega)⟩
  · obtain ⟨hs, hleft⟩ := single (by simp [ho]) (by simp [ho])
    exact .inl ⟨_, if_pos hs, hleft⟩

/-- A command in flight can be resumed. -/
theorem resume_of_inFlight (h : commandInFlight s = true) (hq : sequenceOf s.op = some q) :
    resume s = .next (carryOut q s) := by
  have hs : stuck q s = false := by
    rcases request_or_done h hq with ⟨r, hr, _⟩ | ⟨_, hd⟩ <;> simp [stuck, *]
  simp [resume, hq, hs]

end InFlight

section Step
variable {s : State} {q : Sequence} {w : Word} {rest : List Input}

theorem step_reset (hi : s.inputs = .reset :: rest) : step s = .next (hardReset (setInputs rest s)) := by
  rw [step, nextEvent, hi]

theorem step_eq_resume (hb : s.busy = true) (hc : ∀ w rest, s.inputs ≠ .command w :: rest)
    (hr : ∀ rest, s.inputs ≠ .reset :: rest) : step s = resume s := by
  unfold step nextEvent
  split
  case h_2 hi => exact absurd hi (hc _ _)
  case h_6 hi => exact absurd hi (hr _)
  all_goals exact if_pos hb

theorem takeCommand_busy (hb : s.busy = true) : takeCommand w s = .refused .commandWhileBusy := by
  rw [takeCommand]
  cases decode w with
  | ok i => exact (exec_eq i _).trans (whenIdle_busy hb)
  | error e => exact whenIdle_busy hb

/-- An idle block always takes the word, legal or not. -/
theorem takeCommand_idle (hb : s.busy = false) : ∃ t, takeCommand w s = .next t := by
  rw [takeCommand]
  cases decode w with
  | ok i => exact ⟨_, (exec_eq i _).trans (whenIdle_idle hb)⟩
  | error e => exact ⟨_, whenIdle_idle hb⟩

theorem step_command_busy (hb : s.busy = true) (hi : s.inputs = .command w :: rest) :
    step s = .refused .commandWhileBusy :=
  (step_command hi).trans (takeCommand_busy (s := setInputs rest s) hb)

/-- A busy block meets any event but a command word. -/
theorem step_busy_next (h : BlockInv s) (hb : s.busy = true) (hc : ∀ w rest, s.inputs ≠ .command w :: rest) :
    ∃ t, step s = .next t := by
  by_cases hr : ∃ rest, s.inputs = .reset :: rest
  · obtain ⟨rest, hi⟩ := hr
    exact ⟨_, step_reset hi⟩
  · obtain ⟨q, hq⟩ := sequence_of_inFlight (h.in_flight hb)
    exact ⟨_, (step_eq_resume hb hc fun rest hi => hr ⟨rest, hi⟩).trans (resume_of_inFlight (h.in_flight hb) hq)⟩

/-- An idle block meets any event but an answer. -/
theorem step_idle_next (hb : s.busy = false) (ha : ∀ a rest, s.inputs ≠ .reply a :: rest) : ∃ t, step s = .next t := by
  have idle : ∀ {busy next : Host.Outcome State Fault Refusal}, (if s.busy then busy else next) = next := by simp [hb]
  unfold step nextEvent
  split
  case h_1 => exact ⟨_, idle⟩
  case h_2 w rest hi => exact takeCommand_idle (s := setInputs rest s) hb
  case h_3 a rest hi => exact absurd hi (ha a rest)
  case h_4 => exact ⟨_, idle⟩
  case h_5 => exact ⟨_, idle⟩
  case h_6 => exact ⟨_, rfl⟩

theorem step_reply_idle (hb : s.busy = false) {a : Reply} (hi : s.inputs = .reply a :: rest) :
    step s = .refused .unsolicitedReply := by
  simp [step, nextEvent, hi, hb]

end Step

/-- Settles O48: busy or idle, a block meets every event but the one the spec excludes there, because a command in flight
always has a next request or can finish. -/
theorem stepNeverFaults : Obligations.StepNeverFaults := by
  intro s h
  cases hb : s.busy with
  | true =>
    by_cases hc : ∃ w rest, s.inputs = .command w :: rest
    · obtain ⟨w, rest, hi⟩ := hc
      exact .inr (.inl ⟨step_command_busy hb hi, rfl, w, rest, hi⟩)
    · exact .inl (step_busy_next h hb fun w rest hi => hc ⟨w, rest, hi⟩)
  | false =>
    by_cases ha : ∃ a rest, s.inputs = .reply a :: rest
    · obtain ⟨a, rest, hi⟩ := ha
      exact .inr (.inr ⟨step_reply_idle hb hi, rfl, a, rest, hi⟩)
    · exact .inl (step_idle_next hb fun a rest hi => ha ⟨a, rest, hi⟩)

section Waiting
variable {s : State} {q : Sequence} {quiet : List Input}

/-- Quiet events pass a waiting command by: it goes on with what comes after them as it would have gone on at once. -/
theorem drive_quiet (hw : s.busy = true) {r : Request} (hp : s.pending = some r) (hquiet : ∀ e ∈ quiet, isQuiet e = true)
    (ins : List Input) : drive q (quiet ++ ins) s = drive q ins s := by
  induction quiet with
  | nil => rfl
  | cons e quiet ih =>
    obtain ⟨he, hothers⟩ := List.forall_mem_cons.mp hquiet
    rw [List.cons_append, ← ih hothers]
    cases e with
    | staleReply a => rw [drive_stale_waiting a hw hp, drive_setInputs]
    | delay => rw [drive_delay_waiting hw hp, drive_setInputs]
    | command w => cases he
    | reply a => cases he
    | reset => cases he

/-- A waiting command is left where it is by no event, a reset and a command word. -/
theorem drive_held {r : Request} (hp : s.pending = some r) {ins : List Input}
    (hins : ∀ e ∈ ins.head?, e = .reset ∨ isCommand e = true) : drive q ins s = setInputs ins s := by
  cases ins with
  | nil => exact settle_waiting (s := setInputs [] s) hp
  | cons e rest =>
    rcases hins e rfl with rfl | he
    · rfl
    · cases e with
      | command w => exact settle_waiting (s := setInputs (.command w :: rest) s) hp
      | _ => cases he

/-- Over quiet events a waiting command stays where it is, and so does the event after them. -/
theorem step_quiet (h : BlockInv s) (hb : s.busy = true) (hp : s.pending.isSome = true)
    (hquiet : ∀ e ∈ quiet, isQuiet e = true) {ins : List Input} (hins : ∀ e ∈ ins.head?, e = .reset ∨ isCommand e = true)
    (hne : quiet ≠ [] ∨ ins = []) : step (setInputs (quiet ++ ins) s) = .next (setInputs ins s) := by
  obtain ⟨q, hq⟩ := sequence_of_inFlight (h.in_flight hb)
  obtain ⟨r, hr⟩ := Option.isSome_iff_exists.mp hp
  have head : ∀ {e rest}, quiet ++ ins = e :: rest → isQuiet e = true := by
    intro e rest he
    cases quiet with
    | nil =>
      obtain rfl : ins = [] := hne.resolve_left (· rfl)
      cases he
    | cons e' quiet =>
      cases he
      exact hquiet _ (.head _)
  have resumed : step (setInputs (quiet ++ ins) s) = resume (setInputs (quiet ++ ins) s) :=
    step_eq_resume hb (fun _ _ he => by cases head he) (fun _ he => by cases head he)
  rw [resumed, resume_of_inFlight (s := setInputs (quiet ++ ins) s) (h.in_flight hb) hq, carryOut, setInputs_inputs,
    drive_setInputs, drive_quiet hb hr hquiet, drive_held hr hins]

theorem smallStep_unanswered (h : BlockInv s) (hb : s.busy = true) (hp : s.pending.isSome = true) (hi : s.inputs = []) :
    smallStep s = .next s := by
  obtain ⟨q, hq⟩ := sequence_of_inFlight (h.in_flight hb)
  rw [smallStep_waiting hq (by simp [hi]) (by simp [hb, hp]), smallAnswer, hi]

theorem smallRun_of_fixed (h : smallStep s = .next s) (n : Nat) : smallRun n s = .next s := by
  induction n with
  | zero => rfl
  | succ n ih => rwa [smallRun, h]

theorem hardReset_no_handle (s : State) : (hardReset s).pending = none ∧ (hardReset s).phase = .uninit := by
  cases hp : s.pending <;> rw [hardReset, hp] <;> exact ⟨rfl, rfl⟩

end Waiting

/-- Settles O41: no event and quiet events leave the waiting command as it is; only a reset takes it out. -/
theorem unansweredRequestHangs : Obligations.UnansweredRequestHangs := by
  intro s h hb hp
  have events : ∀ ins, { s with inputs := ins } = setInputs ins s := fun _ => rfl
  simp only [events]
  refine ⟨fun hi => ⟨?_, smallRun_of_fixed (smallStep_unanswered h hb hp hi)⟩, fun quiet hquiet => ?_,
    fun quiet e rest hquiet hne he => ?_, fun w rest => ?_, fun rest => ?_⟩
  · have same : setInputs [] s = s := by rw [← hi, setInputs_self]
    simpa [same] using step_quiet (quiet := []) (ins := []) h hb hp nofun nofun (.inr rfl)
  · simpa using step_quiet (ins := []) h hb hp hquiet nofun (.inr rfl)
  · exact step_quiet h hb hp hquiet (fun _ hx => Option.some.inj hx ▸ he) (.inl hne)
  · exact step_command_busy hb (setInputs_inputs _ s)
  · obtain ⟨hpending, hphase⟩ := hardReset_no_handle (setInputs rest s)
    exact ⟨_, step_reset (setInputs_inputs _ s), (hardReset_quiet _).1, hpending, hphase⟩

section Answered
variable {i : Instr} {s t : State} {q : Sequence} {n : Nat} {r : Request}

/-- The command of the sequence `q` is in progress in `s`, with at most `n` requests left to issue. -/
structure Underway (q : Sequence) (n : Nat) (s : State) : Prop where
  busy : s.busy = true
  sequence : sequenceOf s.op = some q
  inFlight : commandInFlight s = true
  left : requestsLeft s ≤ n

/-- In `s` the command is over, or needs at most `n` answers more; no request is outstanding. -/
def EndsWithin (q : Sequence) (n : Nat) (s : State) : Prop :=
  s.pending = none ∧ (s.busy = false ∨ Underway q n s)

theorem commandInFlight_congr (ho : t.op = s.op) (ha : t.arg = s.arg) (hs : t.step = s.step) (hd : t.devAddr = s.devAddr)
    (hp : t.phase = s.phase) : commandInFlight t = commandInFlight s := by
  simp only [commandInFlight, ho, ha, hs, hd, hp]

/-- Issuing a request and closing it leaves the command where it was. -/
theorem closeRequest_underway (h : Underway q n s) (r : Request) (ans : Reply) :
    Underway q n (closeRequest r ans (send r s)) where
  busy := by simpa using h.busy
  sequence := by simpa using h.sequence
  inFlight := by rw [← h.inFlight]; apply commandInFlight_congr <;> simp
  left := by simpa [requestsLeft] using h.left

/-- One request less is left where `STEP` advances, whatever else the answer stores. -/
theorem advance_underway (h : Underway q (n + 1) s)
    (hlt : s.op = 0x01 ∧ s.step.toNat < 4 ∨ s.op = 0x20 ∧ s.step.toNat < s.arg.toNat)
    (acc : Vector Word 64 := s.acc) (raw : Word := s.raw) (mag : BitVec 17 := s.mag) :
    Underway q n { s with step := s.step + 1, acc := acc, raw := raw, mag := mag } := by
  have left := h.left
  have hop : sequenceOf s.op = some q := h.sequence
  rcases hlt with ⟨ho, hlt⟩ | ⟨ho, hlt⟩
  · obtain ⟨hph, harg, _⟩ := init_of_inFlight h.inFlight ho
    have hs : (s.step + 1).toNat = s.step.toNat + 1 := step_succ (by omega)
    rw [requestsLeft_init ho] at left
    exact ⟨h.busy, hop, (commandInFlight_iff _).mpr (.inl ⟨ho, hph, harg, by simp only [hs]; omega⟩),
      le_of_eq_of_le (requestsLeft_init ho) (by simp only [hs]; omega)⟩
  · obtain ⟨hph, hmin, hmax, _⟩ := scan_of_inFlight h.inFlight ho
    have hs : (s.step + 1).toNat = s.step.toNat + 1 := step_succ (by omega)
    rw [requestsLeft_scan ho] at left
    exact ⟨h.busy, hop,
      (commandInFlight_iff _).mpr (.inr (.inr (.inl ⟨ho, hph, hmin, hmax, by simp only [hs]; omega⟩))),
      le_of_eq_of_le (requestsLeft_scan ho) (by simp only [hs]; omega)⟩

/-- An `Ok` answer ends the command, or leaves one request less. -/
theorem answerOk_ends (h : Underway q (n + 1) s) (hr : q.request s = some r) (w : Word) :
    (q.answerOk w s).busy = false ∨ Underway q n (q.answerOk w s) := by
  rcases sequenceOf_cases h.sequence with ⟨ho, rfl⟩ | ⟨_, rfl⟩ | ⟨ho, rfl⟩ | ⟨_, rfl⟩
  · exact .inr (advance_underway h (.inl ⟨ho, initRequest_eq_some hr⟩))
  · exact .inl rfl
  · cases hw : accepted w with
    | false =>
      rw [scanSequence_answerOk_rejected hw]
      exact .inl rfl
    | true =>
      rw [scanSequence_answerOk_accepted hw]
      exact .inr (advance_underway h (.inr ⟨ho, (scanRequest_eq_some hr).1⟩) _ _ _)
  · exact .inl rfl

/-- A request issued and answered ends the command, or leaves one request less. -/
theorem answer_ends (h : Underway q (n + 1) s) (hr : q.request s = some r) (ans : Reply) :
    EndsWithin q n (answer q ans (send r s)) := by
  have closed := closeRequest_underway h r ans
  cases he : ans.err with
  | true =>
    rw [answer_err (send_pending _ _) he]
    exact ⟨closeRequest_pending _ _ _, .inl rfl⟩
  | false =>
    have hr' : q.request (closeRequest r ans (send r s)) = some r := by
      rw [← nextRequest_of_sequence closed.sequence, ← hr, ← nextRequest_of_sequence h.sequence]
      apply nextRequest_congr <;> simp
    rw [answer_ok (send_pending _ _) he]
    refine ⟨?_, answerOk_ends closed hr' _⟩
    obtain ⟨_, _, _, _, _, hpending, _⟩ := answerOk_keeps closed.sequence ans.data
    rw [hpending, closeRequest_pending]

theorem setInputs_underway (h : Underway q n s) (ins : List Input) : Underway q n (setInputs ins s) := { h with }

/-- *Finish* ends the command. -/
theorem finish_ends (hq : sequenceOf s.op = some q) (hd : q.done s = true) (hp : s.pending = none) :
    (q.finish s).busy = false ∧ (q.finish s).pending = none := by
  rcases sequenceOf_cases hq with ⟨_, rfl⟩ | ⟨_, rfl⟩ | ⟨_, rfl⟩ | ⟨_, rfl⟩
  · exact ⟨rfl, hp⟩
  · cases hd
  · exact ⟨rfl, hp⟩
  · cases hd

/-- With no request left a command finishes, whatever answers are still to come. -/
theorem drive_finishes (hb : s.busy = true) (hp : s.pending = none) (hq : sequenceOf s.op = some q)
    (hn : q.request s = none) (hd : q.done s = true) {ins : List Input} (hi : ins.head? ≠ some .reset) :
    (drive q ins s).busy = false ∧ (drive q ins s).pending = none := by
  obtain ⟨hr', hd', _⟩ := sequence_setInputs hq ins
  have finished : settle q (setInputs ins s) = q.finish (setInputs ins s) :=
    settle_finish hb hp (hr'.trans hn) (hd'.trans hd)
  have ended : (q.finish (setInputs ins s)).busy = false ∧ (q.finish (setInputs ins s)).pending = none :=
    finish_ends hq (hd'.trans hd) hp
  rwa [drive_of_settle_idle hi (by rw [finished]; exact ended.1), finished]

/-- Whatever comes next but a reset, a command is over or finishes, or else it has a request to issue. -/
theorem drive_over_or_requests (h : EndsWithin q n s) :
    (∀ ins, ins.head? ≠ some .reset → (drive q ins s).busy = false ∧ (drive q ins s).pending = none) ∨
    (Underway q n s ∧ s.pending = none ∧ ∃ r, q.request s = some r ∧ 0 < requestsLeft s) := by
  obtain ⟨hp, hb | h⟩ := h
  · refine .inl fun ins _ => ?_
    rw [drive_idle hb]
    exact ⟨hb, hp⟩
  · rcases request_or_done h.inFlight h.sequence with hr | ⟨hn, hd⟩
    · exact .inr ⟨h, hp, hr⟩
    · exact .inl fun ins => drive_finishes h.busy hp h.sequence hn hd

/-- A command given as many answers as it needs is over with no request outstanding. -/
theorem drive_ends (answers : List Reply) (h : EndsWithin q answers.length s) :
    (drive q (answers.map .reply) s).busy = false ∧ (drive q (answers.map .reply) s).pending = none := by
  induction answers generalizing s with
  | nil =>
    rcases drive_over_or_requests h with ended | ⟨h, _, _, _, hleft⟩
    · exact ended [] nofun
    · exact absurd hleft (Nat.not_lt.mpr h.left)
  | cons ans answers ih =>
    rcases drive_over_or_requests h with ended | ⟨h, hp, r, hr, _⟩
    · exact ended _ (by simp)
    · have hr' := (sequence_setInputs h.sequence (.reply ans :: answers.map .reply)).1.trans hr
      rw [List.map_cons, drive_reply_issue ans h.busy hp hr']
      exact ih (answer_ends (setInputs_underway h _) hr' ans)

/-- Acceptance leaves a legal command in flight, if it leaves one, and no request. -/
theorem accept_inFlight (i : Instr) (s : State) :
    (accept i s).pending = s.pending ∧ ((accept i s).busy = true → commandInFlight (accept i s) = true) := by
  rcases accept_forms i with ⟨addr, rfl⟩ | ⟨noHandle, forms⟩
  · exact ⟨rfl, fun _ => (commandInFlight_iff _).mpr (.inl ⟨rfl, rfl, rfl, Nat.zero_le _⟩)⟩
  cases hp : s.phase with
  | uninit =>
    rw [noHandle s hp]
    exact ⟨rfl, nofun⟩
  | configured =>
    rcases forms with badCount | ⟨op, arg, _, latched⟩
    · rw [badCount s hp]
      exact ⟨rfl, nofun⟩
    · obtain ⟨e, legal⟩ := latched s hp
      rw [e]
      exact ⟨rfl, fun _ => legal⟩

/-- An accepted command needs at most 64 answers. -/
theorem accept_ends (i : Instr) (hidle : Idle s) (hn : 64 ≤ n) : EndsWithin (sequenceFor i) n (accept i s) := by
  obtain ⟨hpending, inFlight⟩ := accept_inFlight i s
  refine ⟨hpending.trans hidle.2, ?_⟩
  cases hb : (accept i s).busy with
  | false => exact .inl rfl
  | true => exact .inr ⟨hb, accept_sequence i s hidle.1 hb, inFlight hb, (requestsLeft_le (inFlight hb)).trans hn⟩

/-- Carrying a command out takes no command word from the port. -/
theorem exec_commands (h : exec i s = .next t) : t.commands = s.commands := by
  obtain ⟨hb, rfl⟩ := exec_eq_next.mp h
  rw [← accept_commands i s]
  cases ha : (accept i s).busy with
  | false => rw [carryOut_idle _ ha]
  | true => exact drive_commands _ (accept_sequence i s hb ha)

/-- The end of a run (R204): idle, every command answered, no command word to come. -/
theorem runEnded_of_idle (hb : s.busy = false) (hr : s.responses.length = s.commands.length)
    (hi : ∀ e ∈ s.inputs, isCommand e = false) : runEnded s = true := by
  simpa [runEnded, allAnswered, hb, hr] using hi

end Answered

/-- Settles O51: each answer leaves one request less to issue, and no command has more than 64. -/
theorem answeredCommandsEnd : Obligations.AnsweredCommandsEnd := by
  intro i s answers hidle hin hlen
  have he : exec i s = .next (carryOut (sequenceFor i) (accept i s)) := exec_eq_next.mpr ⟨hidle.1, rfl⟩
  obtain ⟨hb, hp⟩ := drive_ends answers (accept_ends i hidle hlen)
  rw [← hin, ← accept_inputs i s] at hb hp
  have once : (carryOut (sequenceFor i) (accept i s)).responses.length = s.responses.length + 1 := by
    rcases exec_responds he with ⟨hbusy, _⟩ | ⟨_, r, hr, _⟩
    · exact absurd (hbusy.symm.trans hb) nofun
    · rw [hr, List.length_append, List.length_singleton]
  refine ⟨_, he, hb, hp, once, fun hall => runEnded_of_idle hb ?_ fun e hmem => ?_⟩
  · rw [once, exec_commands he, hall]
  · have left := (exec_inputs he).mem hmem
    rw [hin] at left
    obtain ⟨a, _, rfl⟩ := List.mem_map.mp left
    rfl

end Sys2Proof.Machine
end

section
/-! Reset and hazards (`70_reset_and_hazards.md`): what a reset leaves (R190, R191), a command word at the port of an idle
and of a busy block (R192, R196, R205), answers that come late (R203, R206), and the end of a run (R204). -/

namespace Sys2Proof.Machine
open Sys2Proof.Claims

/-- Settles O40: a busy block refuses the word, whether it decodes or not. -/
theorem busyTakesNoCommand : Obligations.BusyTakesNoCommand := fun _ _ _ hb hi => step_command_busy hb hi

theorem decode_tableWord_of_decodeTableWord {n w : Nat} {i : Instr} (h : decodeTableWord n w = some i) :
    decode (tableWord n w) = .ok i := by
  rw [decodeTableWord] at h
  split at h <;> cases h
  assumption

/-- Settles O39: the word stands first at the port of a block made idle (log 19), so the step takes it and runs what it
decodes to. -/
theorem presentedWordRuns : Obligations.PresentedWordRuns := fun s n _ hd =>
  (step_command (presentCommand_inputs (tableWord 16 n) s)).trans
    (takeCommand_decoded (decode_tableWord_of_decodeTableWord hd) _)

/-- In `s` the command of the sequence `q` waits for the answer to the request `r`. -/
structure Awaits (q : Sequence) (r : Request) (s : State) : Prop where
  sequence : sequenceOf s.op = some q
  busy : s.busy = true
  pending : s.pending = some r

/-- A command with a request outstanding waits. -/
theorem BlockInv.awaits {s : State} (h : BlockInv s) (hb : s.busy = true) (hp : s.pending.isSome = true) :
    ∃ q r, Awaits q r s := by
  obtain ⟨q, hq⟩ := sequence_of_inFlight (h.in_flight hb)
  obtain ⟨r, hr⟩ := Option.isSome_iff_exists.mp hp
  exact ⟨q, r, hq, hb, hr⟩

section Reset
variable {s : State} {q : Sequence} {a : Reply} {r : Request} {rest : List Input}

theorem hardReset_trace (s : State) : (hardReset s).trace = s.trace := by
  cases hp : s.pending <;> rw [hardReset, hp] <;> rfl

theorem hardReset_commands (s : State) : (hardReset s).commands = s.commands := by
  cases hp : s.pending <;> rw [hardReset, hp] <;> rfl

theorem hardReset_delivered_none (hp : s.pending = none) : (hardReset s).delivered = s.delivered := by
  rw [hardReset, hp]
  rfl

/-- Whether an outstanding request takes effect is the next draw (R191). -/
theorem hardReset_delivered_some (hp : s.pending = some r) : (hardReset s).delivered =
    if Config.deliveryDraw s.draws then s.delivered ++ [r] else s.delivered := by
  rw [hardReset, hp]
  rfl

/-- An idle block only consumes an answer to an abandoned request. -/
theorem step_stale_idle (hb : s.busy = false) (hi : s.inputs = .staleReply a :: rest) :
    step s = .next (setInputs rest s) := by
  simp [step, nextEvent, hi, hb]

/-- A waiting block consumes such an answer in a small step. -/
theorem smallStep_stale_waiting (h : Awaits q r s) (hi : s.inputs = .staleReply a :: rest) :
    smallStep s = .next (setInputs rest s) := by
  rw [smallStep_waiting h.sequence (by simp [hi]) (by simp [h.busy, h.pending]), smallAnswer, hi]

/-- A waiting command can be resumed. -/
theorem resume_waiting (h : Awaits q r s) : resume s = .next (carryOut q s) := by
  simp [resume, stuck, h.sequence, h.pending]

/-- At an event other than a command word and a reset, the step of a waiting command carries it on. -/
theorem step_waiting (h : Awaits q r s) {ins : List Input} (hc : ∀ w, ins.head? ≠ some (.command w))
    (hr : ins.head? ≠ some .reset) : step (setInputs ins s) = .next (drive q ins s) := by
  rw [step_eq_resume (s := setInputs ins s) h.busy (fun w _ hi => hc w (congrArg List.head? hi))
      (fun _ hi => hr (congrArg List.head? hi)),
    resume_waiting (s := setInputs ins s) { h with }, carryOut, setInputs_inputs, drive_setInputs]

/-- The step of a waiting command goes on past an answer to an abandoned request as it would without it. -/
theorem step_stale_waiting (h : Awaits q r s) (hc : ∀ w, rest.head? ≠ some (.command w))
    (hr : rest.head? ≠ some .reset) : step (setInputs (.staleReply a :: rest) s) = step (setInputs rest s) := by
  rw [step_waiting h hc hr, step_waiting h (by simp) (by simp), drive_stale_waiting a h.busy h.pending, drive_setInputs]

end Reset

/-- Settles O43: the fields a reset writes, and a late answer as a quiet event to an idle and to a waiting block. -/
theorem resetEvent : Obligations.ResetEvent := by
  refine ⟨fun s rest hi => ?_, fun s a rest => step_stale_idle, fun s a rest h hb hp hi => ?_⟩
  · obtain ⟨hbusy, hresponses⟩ := hardReset_quiet (setInputs rest s)
    obtain ⟨hpending, hphase⟩ := hardReset_no_handle (setInputs rest s)
    exact ⟨_, step_reset hi, hphase, hbusy, hpending, hardReset_inputs _, hardReset_trace _, hresponses,
      hardReset_delivered_none (s := setInputs rest s), fun _ => hardReset_delivered_some (s := setInputs rest s)⟩
  · obtain ⟨q, r, waits⟩ := h.awaits hb hp
    have events : s = setInputs (.staleReply a :: rest) s := by rw [← hi, setInputs_self]
    refine ⟨smallStep_stale_waiting waits hi, fun held => ?_, fun hreset hcommand => ?_⟩
    · have hins : ∀ e ∈ rest.head?, e = .reset ∨ isCommand e = true := by
        rcases held with hh | ⟨w, hh⟩ <;> simp [hh, isCommand]
      rw [events]
      exact step_quiet (quiet := [.staleReply a]) h hb hp (by simp [isQuiet]) hins (.inl nofun)
    · exact (congrArg step events).trans (step_stale_waiting waits hcommand hreset)

section Late
variable {i : Instr} {s : State} {q : Sequence} {n : Nat} {r : Request} {a : Reply} {post : List Input}

/-- A command in flight issues its request and takes the answer to it, whatever comes after. -/
theorem drive_answered (h : Underway q n s) (hp : s.pending = none) (hr : q.request s = some r) (ans : Reply)
    (rest : List Input) : drive q (.reply ans :: rest) s = drive q rest (answer q ans (send r s)) := by
  have events : answer q ans (send r (setInputs (.reply ans :: rest) s)) =
      setInputs (.reply ans :: rest) (answer q ans (send r s)) := answer_setInputs (s := send r s) h.sequence ans _
  rw [drive_reply_issue ans h.busy hp ((sequence_setInputs h.sequence _).1.trans hr), events, drive_setInputs]

/-- A command that runs out of answers waits for the next one, and goes on with it as if it had not waited. -/
theorem drive_late (pre : List Reply) (h : EndsWithin q n s) (hb : (drive q (pre.map .reply) s).busy = true) :
    (∃ r, Awaits q r (drive q (pre.map .reply) s)) ∧
    drive q (pre.map .reply ++ .reply a :: post) s = drive q (.reply a :: post) (drive q (pre.map .reply) s) := by
  induction pre generalizing n s with
  | nil =>
    rcases drive_over_or_requests h with ended | ⟨h, hp, r, hr, _⟩
    · exact absurd ((ended [] nofun).1.symm.trans hb) nofun
    have issued : drive q [] s = send r (setInputs [] s) :=
      settle_issue h.busy hp ((sequence_setInputs h.sequence []).1.trans hr)
    simp only [List.map_nil, List.nil_append, issued]
    refine ⟨⟨r, h.sequence, h.busy, rfl⟩, ?_⟩
    rw [drive_reply_issue a h.busy hp ((sequence_setInputs h.sequence _).1.trans hr),
      drive_reply_waiting a (s := send r (setInputs [] s)) h.busy rfl]
    rfl
  | cons ans pre ih =>
    rcases drive_over_or_requests h with ended | ⟨h, hp, r, hr, hleft⟩
    · exact absurd ((ended _ (by simp)).1.symm.trans hb) nofun
    obtain ⟨m, rfl⟩ : ∃ m, n = m + 1 := Nat.exists_eq_succ_of_ne_zero (by have := h.left; omega)
    rw [List.map_cons, drive_answered h hp hr] at hb ⊢
    rw [List.cons_append, drive_answered h hp hr]
    exact ih (answer_ends h hr ans) hb

/-- What a meaning does with the events `ins`. -/
theorem exec_setInputs (i : Instr) (hb : s.busy = false) (ins : List Input) :
    exec i (setInputs ins s) = .next (drive (sequenceFor i) ins (accept i s)) := by
  rw [exec_eq, whenIdle_idle (s := setInputs ins s) hb, carryOut, accept_inputs, accept_setInputs, setInputs_inputs,
    drive_setInputs]

end Late

/-- Settles O50: by induction over the answers that came in time; the command then waits, and takes the late one. -/
theorem lateAnswersMakeNoDifference : Obligations.LateAnswersMakeNoDifference := by
  intro i s t pre a post hidle hin he hb
  have inTime := exec_setInputs i hidle.1 s.inputs
  rw [setInputs_self, he, hin] at inTime
  obtain rfl := Host.Outcome.next.inj inTime
  obtain ⟨⟨r, waits⟩, late⟩ := drive_late (a := a) (post := post) pre (accept_ends i hidle le_rfl) hb
  have resumed := step_waiting waits (ins := .reply a :: post) (by simp) (by simp)
  have atOnce := exec_setInputs i hidle.1 (pre.map .reply ++ .reply a :: post)
  exact resumed.trans ((congrArg _ late.symm).trans atOnce.symm)

section RunEnd
variable {s t : State} {w : Word}

theorem any_isCommand_eq_false {ins : List Input} : ins.any isCommand = false ↔ ∀ w, .command w ∉ ins := by
  rw [List.any_eq_false]
  refine ⟨fun h w hw => h _ hw rfl, fun h e he => ?_⟩
  cases e with
  | command w => exact absurd he (h w)
  | _ => exact Bool.false_ne_true

/-- Each command taken has had its response, is in progress, or was abandoned. -/
theorem BlockInv.commands_length (h : BlockInv s) :
    s.commands.length = s.responses.length + s.busy.toNat + abandoned s :=
  (Nat.add_sub_of_le h.responses_owed).symm

theorem runEnded_iff (h : BlockInv s) :
    runEnded s = true ↔ s.busy = false ∧ abandoned s = 0 ∧ ∀ w, .command w ∉ s.inputs := by
  have counted := h.commands_length
  have answered : s.busy = false → (s.responses.length = s.commands.length ↔ abandoned s = 0) := fun hb => by
    rw [hb, Bool.toNat_false] at counted
    omega
  rw [runEnded, allAnswered, Bool.and_eq_true, Bool.and_eq_true, Bool.not_eq_true', beq_iff_eq, Bool.not_eq_true',
    any_isCommand_eq_false, and_assoc]
  exact and_congr_right fun hb => and_congr_left' (answered hb)

/-- A command with a request outstanding is in progress. -/
theorem BlockInv.busy_of_pending (h : BlockInv s) (hp : s.pending.isSome = true) : s.busy = true := by
  cases hb : s.busy with
  | true => rfl
  | false => simp [h.idle_quiet hb] at hp

theorem responses_length_of_respondsOnce (h : RespondsOnce s t) :
    t.responses.length + t.busy.toNat = s.responses.length + 1 := by
  rcases h with ⟨hb, hr⟩ | ⟨hb, r, hr, _⟩ <;> simp [hb, hr]

/-- The word taken from the port is the one command noted. -/
theorem takeCommand_commands (h : takeCommand w s = .next t) : t.commands = s.commands ++ [w] := by
  rw [takeCommand] at h
  split at h
  · exact exec_commands h
  · obtain ⟨_, rfl⟩ := whenIdle_eq_next.mp h
    rfl

theorem step_reset_abandoned (h : BlockInv s) (hs : step s = .next t) (hi : s.inputs.head? = some .reset) :
    abandoned t = abandoned s + s.busy.toNat := by
  obtain ⟨rest, hi⟩ := List.head?_eq_some_iff.mp hi
  obtain rfl := Host.Outcome.next.inj ((step_reset hi).symm.trans hs)
  obtain ⟨hbusy, hresponses⟩ := hardReset_quiet (setInputs rest s)
  have counted := h.commands_length
  rw [abandoned, hardReset_commands, hresponses, hbusy, Bool.toNat_false, setInputs_commands, setInputs_responses]
  omega

/-- Only a reset abandons a command: at another event the commands taken grow as those answered or in progress do. -/
theorem step_keeps_abandoned (h : BlockInv s) (hs : step s = .next t) (hi : s.inputs.head? ≠ some .reset) :
    abandoned t = abandoned s := by
  rcases step_cases hs with ⟨rest, hr, _⟩ | ⟨w, rest, hw, ht⟩ | ⟨_, ins, rfl⟩ | ⟨hb, q, hq, rfl⟩
  · simp [hr] at hi
  · have hb : s.busy = false := (takeCommand_cases ht).1
    have responded := responses_length_of_respondsOnce (takeCommand_responds ht)
    rw [abandoned, abandoned, takeCommand_commands ht, responded, hb, List.length_append]
    exact Nat.add_sub_add_right _ 1 _
  · rfl
  · have responded := responses_length_of_respondsOnce (step_busy_responds h hs hb hi)
    rw [abandoned, abandoned, carryOut, drive_commands s.inputs hq, ← carryOut, responded, hb, Bool.toNat_true]

end RunEnd

/-- Settles O56: the commands counted by what became of them, before and after a step. -/
theorem unansweredRunHasNotEnded : Obligations.UnansweredRunHasNotEnded := by
  refine ⟨fun s h => ⟨runEnded_iff h, fun hp => ?_⟩, fun s t h hs => ?_⟩
  · simp [runEnded, h.busy_of_pending hp]
  · by_cases hi : s.inputs.head? = some .reset
    · rw [step_reset_abandoned h hs hi]
      cases hb : s.busy <;> simp [hi]
    · rw [step_keeps_abandoned h hs hi, if_neg fun both => hi both.2, Nat.add_zero]

end Sys2Proof.Machine
end
